-- ==== Sys2Proof/Word.lean ====
section
/-! DEFINITION. The widths of the machine's words (00_scope.md R10, R11, R13). -/

namespace Sys2Proof

/-- A byte: `u8` of 00_scope.md R13. -/
abbrev Byte := BitVec 8

/-- A CPU address or a 16-bit value: `u16` of 00_scope.md R13. -/
abbrev Word := BitVec 16

/-- A PPU address, 14 bits (00_scope.md R11, 62_ppu.md R550). -/
abbrev PpuAddr := BitVec 14

/-- `hi ++ lo` as a 16-bit value: `hi` is the more significant byte (00_scope.md R13). -/
def word (hi lo : Byte) : Word := hi ++ lo

/-- Bits 15:8 of a 16-bit value. -/
def hiByte (w : Word) : Byte := w.extractLsb' 8 8

/-- Bits 7:0 of a 16-bit value. -/
def loByte (w : Word) : Byte := w.setWidth 8

end Sys2Proof
end

