-- ==== Sys2Proof/Config.lean ====
section
/-! DEFINITION. The named parameters of 00_scope.md R12 as plain data, and the one free value of the model.
DESIGN CHOICE (log 4): a parameter set is a field of State, so that a statement about every state is a statement about every
value of every parameter. -/

namespace Sys2Proof

/-- STACK_ORDER (00_scope.md R12, 10_state.md R41). -/
inductive StackOrder where
  | doc
  | mos6502
  deriving DecidableEq, Repr

/-- OAM_DMA_TARGET (00_scope.md R12, 61_bus_cartridge.md R515). -/
inductive OamDmaTarget where
  | doc
  | oamaddr
  deriving DecidableEq, Repr

/-- PALETTE_ALIAS (00_scope.md R12, 62_ppu.md R556). -/
inductive PaletteAlias where
  | doc
  | hardware
  deriving DecidableEq, Repr

/-- SPRITE_PRIORITY (00_scope.md R12, 62_ppu.md R596). -/
inductive SpritePriority where
  | layered
  | hardware
  deriving DecidableEq, Repr

/-- DMC_LIMIT (00_scope.md R12, 63_apu.md R675). -/
inductive DmcLimit where
  | clamp
  | hold
  deriving DecidableEq, Repr

/-- One entry of CYCLES: the base count and whether a page cross adds one cycle (00_scope.md R12, 70_reset_and_hazards.md R770). -/
structure CycleRow where
  base : Nat
  pageCross : Bool
  deriving DecidableEq, Repr

/-- The named parameters of 00_scope.md R12. CYCLES and OPEN_BUS, which the spec gives as functions, are given by the entries
that differ from their defaults, so that they stay plain data. -/
structure Params where
  stackOrder : StackOrder
  /-- CYCLES: the opcodes whose row differs from 70_reset_and_hazards.md R770. -/
  cycleOverrides : List (Nat × CycleRow)
  /-- OPEN_BUS: the addresses whose value differs from `addr >> 8`. -/
  openBusOverrides : List Host.Cell
  absentValue : Byte
  oamDmaTarget : OamDmaTarget
  paletteAlias : PaletteAlias
  spritePriority : SpritePriority
  oddFrameSkip : Bool
  dmcLimit : DmcLimit
  cyclesPerSample : Rat
  cyclesPerFrame : Rat
  framePeriod : Rat
  dropThreshold : Rat
  paceTolerance : Rat
  stallThreshold : Rat
  dmcStall : Nat
  deriving DecidableEq, Repr

/-- The defaults of 00_scope.md R12. DESIGN CHOICE (log 4): the three OPEN parameters (ABSENT_VALUE, CYCLES_PER_SAMPLE,
FRAME_PERIOD) take the values R12 names for simulators. -/
def Params.default : Params where
  stackOrder := .doc
  cycleOverrides := []
  openBusOverrides := []
  absentValue := 0x00
  oamDmaTarget := .doc
  paletteAlias := .doc
  spritePriority := .layered
  oddFrameSkip := true
  dmcLimit := .clamp
  cyclesPerSample := 1789773 / 44100
  cyclesPerFrame := 89342 / 3
  framePeriod := 1000 / 60
  dropThreshold := 195 / 100
  paceTolerance := 5 / 100
  stallThreshold := 1000
  dmcStall := 4

/-- FREE VALUE (log 5): the buttons the host presents at the `n`-th reload of a controller's shift register, on port
`port` (0 or 1): "each reload is a draw of an 8-bit value per port" (64_scheduler.md R725, 93 X8). -/
opaque Config.buttonDraw : (n : Nat) → (port : Nat) → Byte

end Sys2Proof
end

