-- ==== Sys2Proof/Syntax/Forms.lean ====
section
/-! DEFINITION. The operand forms of the thirteen addressing modes (30_encoding.md R115 to R127), by what an instruction
does with the operand. -/

namespace Sys2Proof

/-- The modes that give an effective address (30_encoding.md R118 to R123, R126, R127). -/
inductive Addr where
  /-- Zero page (R118). -/
  | zp (b : Byte)
  /-- Zero page,X (R119). -/
  | zpx (b : Byte)
  /-- Zero page,Y (R120). -/
  | zpy (b : Byte)
  /-- Absolute (R121). -/
  | abs (w : Word)
  /-- Absolute,X (R122). -/
  | absx (w : Word)
  /-- Absolute,Y (R123). -/
  | absy (w : Word)
  /-- Indexed indirect, `(zp,X)` (R126). -/
  | indx (b : Byte)
  /-- Indirect indexed, `(zp),Y` (R127). -/
  | indy (b : Byte)
  deriving DecidableEq, Repr

/-- The operand of an instruction that only reads it: the immediate byte (R117) or a byte of memory. -/
inductive Src where
  | imm (b : Byte)
  | mem (m : Addr)
  deriving DecidableEq, Repr

/-- The operand of a shift or rotate: the accumulator (R116) or a byte of memory. -/
inductive Rmw where
  | acc
  | mem (m : Addr)
  deriving DecidableEq, Repr

/-- The target of JMP: absolute (R121) or indirect (R125). -/
inductive JumpTarget where
  | abs (w : Word)
  | ind (w : Word)
  deriving DecidableEq, Repr

/-- How many operand bytes follow the opcode (30_encoding.md R111). -/
def Addr.size : Addr → Nat
  | .zp _ | .zpx _ | .zpy _ | .indx _ | .indy _ => 1
  | .abs _ | .absx _ | .absy _ => 2

/-- How many operand bytes follow the opcode (30_encoding.md R111). -/
def Src.size : Src → Nat
  | .imm _ => 1
  | .mem m => m.size

/-- How many operand bytes follow the opcode (30_encoding.md R111). -/
def Rmw.size : Rmw → Nat
  | .acc => 0
  | .mem m => m.size

end Sys2Proof
end

