-- ==== Sys2Proof/Syntax.lean ====
section
/-! DEFINITION. The instruction set: one constructor per mnemonic of spec/opcode_table.json (30_encoding.md R129). The rows
that share a mnemonic differ only in their addressing mode, which is the constructor's operand; a row is one constructor with
one form of its operand (log 13). -/

namespace Sys2Proof

/-- The 56 official instructions, and the 105 unassigned opcode bytes (30_encoding.md R129, R131). -/
inductive Instr where
  -- 40_load_store.md
  | lda (m : Src)
  | ldx (m : Src)
  | ldy (m : Src)
  | sta (m : Addr)
  | stx (m : Addr)
  | sty (m : Addr)
  | tax
  | tay
  | txa
  | tya
  | tsx
  | txs
  | pha
  | php
  | pla
  | plp
  -- 41_arith_logic.md
  | adc (m : Src)
  | sbc (m : Src)
  | and (m : Src)
  | ora (m : Src)
  | eor (m : Src)
  | cmp (m : Src)
  | cpx (m : Src)
  | cpy (m : Src)
  | bit (m : Addr)
  | inc (m : Addr)
  | dec (m : Addr)
  | inx
  | iny
  | dex
  | dey
  | asl (m : Rmw)
  | lsr (m : Rmw)
  | rol (m : Rmw)
  | ror (m : Rmw)
  -- 42_control.md
  | jmp (t : JumpTarget)
  | jsr (w : Word)
  | rts
  | bcc (b : Byte)
  | bcs (b : Byte)
  | beq (b : Byte)
  | bmi (b : Byte)
  | bne (b : Byte)
  | bpl (b : Byte)
  | bvc (b : Byte)
  | bvs (b : Byte)
  | brk
  | rti
  | clc
  | sec
  | cli
  | sei
  | cld
  | sed
  | clv
  | nop
  -- 30_encoding.md R131
  | unassigned (op : Byte)
  deriving DecidableEq, Repr

end Sys2Proof
end

