-- ==== Sys2Proof/Machine/State.lean ====
section
/-! DEFINITION. The state of the machine as plain data (10_state.md R49), the reasons a step can stop, and the state right after
reset. INVENTORY.md's "State" section lists every field with its rule. -/

namespace Sys2Proof.Machine

/-- A memory: the (address, byte) pairs of the bytes that differ from 0x00, addresses strictly rising. An address that is not
listed reads as 0x00 (DESIGN CHOICE, log 3). `Memory.wf` (Machine/Memory.lean) says the form holds. -/
abbrev Memory := List Host.Cell

/-- Palette RAM: 32 entries of 6 bits (62_ppu.md R555), in the same canonical form. -/
abbrev PaletteRam := List (Nat × BitVec 6)

/-- One pixel of the frame buffer: the 3 emphasis bits, then the 6-bit colour index (62_ppu.md R598). -/
abbrev Pixel := BitVec 9

/-- The frame buffer: pixel (x, y) is entry 256 * y + x (62_ppu.md R598), in the same canonical form. -/
abbrev FrameBuffer := List (Nat × Pixel)

/-- Nametable mirroring (61_bus_cartridge.md R487). A header gives one of the first three; the last two are MMC1's. -/
inductive Mirroring where
  | horizontal
  | vertical
  | fourScreen
  | singleLow
  | singleHigh
  deriving DecidableEq, Repr

/-- The mapper a cartridge is served by (61_bus_cartridge.md R480, R492). -/
inductive MapperKind where
  | nrom
  | mmc1
  deriving DecidableEq, Repr

/-- The MMC1 serial register and its four registers (61_bus_cartridge.md R500). -/
structure Mmc1 where
  shift : BitVec 5
  count : Nat
  control : BitVec 5
  chr0 : BitVec 5
  chr1 : BitVec 5
  prg : BitVec 5
  deriving DecidableEq, Repr

/-- The MMC1 registers at power-on (61_bus_cartridge.md R500). -/
def Mmc1.powerOn : Mmc1 where
  shift := 0
  count := 0
  control := 0x0C
  chr0 := 0
  chr1 := 0
  prg := 0

/-- The cartridge (61_bus_cartridge.md R480). PRG bank `i` is at `16384 * i` of `prgRom`, CHR bank `j` at `4096 * j` of `chr`. -/
structure Cart where
  present : Bool
  nPrg : Nat
  prgRom : Memory
  nChr4 : Nat
  chrIsRam : Bool
  chr : Memory
  prgRam : Memory
  /-- The 512 trainer bytes a power-on leaves in PRG-RAM, or none (61 R482, 70 R743; log 12). -/
  trainer : List Byte
  vramExtra : Memory
  /-- The header's mirroring (61 R483). -/
  mirroring : Mirroring
  battery : Bool
  mapper : BitVec 8
  mapperKind : MapperKind
  mmc1 : Mmc1
  deriving DecidableEq, Repr

/-- The absent cartridge (61_bus_cartridge.md R494). -/
def Cart.absent : Cart where
  present := false
  nPrg := 0
  prgRom := []
  nChr4 := 0
  chrIsRam := false
  chr := []
  prgRam := []
  trainer := []
  vramExtra := []
  mirroring := .horizontal
  battery := false
  mapper := 0
  mapperKind := .nrom
  mmc1 := Mmc1.powerOn

/-- The two controller ports (61_bus_cartridge.md R510). -/
structure Pads where
  strobe : Bool
  sr0 : Byte
  sr1 : Byte
  reads0 : Nat
  reads1 : Nat
  deriving DecidableEq, Repr

/-- The controllers at power-on (61_bus_cartridge.md R510, 70_reset_and_hazards.md R740). -/
def Pads.powerOn : Pads where
  strobe := false
  sr0 := 0
  sr1 := 0
  reads0 := 8
  reads1 := 8

/-- One of the 8 sprite units (62_ppu.md R593). -/
structure SpriteUnit where
  lo : Byte
  hi : Byte
  attr : Byte
  x : Byte
  zero : Bool
  deriving DecidableEq, Repr

/-- A sprite unit at power-on (70_reset_and_hazards.md R744). -/
def SpriteUnit.powerOn : SpriteUnit where
  lo := 0
  hi := 0
  attr := 0
  x := 0
  zero := false

/-- The picture unit (62_ppu.md R530). CIRAM `k` is at `1024 * k` of `ciram`. -/
structure Ppu where
  ctrl : Byte
  mask : Byte
  vblank : Bool
  sprite0Hit : Bool
  spriteOverflow : Bool
  oamaddr : Byte
  v : BitVec 15
  t : BitVec 15
  fineX : BitVec 3
  w : Bool
  readBuf : Byte
  ioLatch : Byte
  nmiOut : Bool
  oam : Memory
  secOam : Memory
  ciram : Memory
  palette : PaletteRam
  scanline : Nat
  dot : Nat
  oddFrame : Bool
  ntLatch : Byte
  atLatch : BitVec 2
  ptLoLatch : Byte
  ptHiLatch : Byte
  bgLo : BitVec 16
  bgHi : BitVec 16
  atLo : BitVec 16
  atHi : BitVec 16
  sprCount : Nat
  sprites : List SpriteUnit
  frame : FrameBuffer
  deriving DecidableEq, Repr

/-- An envelope (63_apu.md R620, R646). -/
structure Envelope where
  const : Bool
  vol : BitVec 4
  start : Bool
  div : BitVec 4
  decay : BitVec 4
  deriving DecidableEq, Repr

/-- A sweep unit (63_apu.md R620, R651). -/
structure Sweep where
  en : Bool
  per : BitVec 3
  neg : Bool
  shift : BitVec 3
  div : BitVec 3
  reload : Bool
  deriving DecidableEq, Repr

/-- A pulse channel (63_apu.md R620). -/
structure Pulse where
  en : Bool
  duty : BitVec 2
  seq : BitVec 3
  period : BitVec 11
  timer : BitVec 11
  len : Byte
  halt : Bool
  env : Envelope
  sweep : Sweep
  deriving DecidableEq, Repr

/-- The triangle channel (63_apu.md R620). -/
structure Triangle where
  en : Bool
  period : BitVec 11
  timer : BitVec 11
  seq : BitVec 5
  len : Byte
  ctrl : Bool
  linReloadVal : BitVec 7
  lin : BitVec 7
  linReload : Bool
  deriving DecidableEq, Repr

/-- The noise channel (63_apu.md R620). -/
structure Noise where
  en : Bool
  mode : Bool
  perIdx : BitVec 4
  timer : BitVec 12
  lfsr : BitVec 15
  len : Byte
  halt : Bool
  env : Envelope
  deriving DecidableEq, Repr

/-- The delta-modulation channel (63_apu.md R620). -/
structure Dmc where
  irqEn : Bool
  loop : Bool
  rateIdx : BitVec 4
  timer : BitVec 9
  level : BitVec 7
  sampleAddr : Word
  sampleLen : BitVec 12
  curAddr : Word
  remaining : BitVec 12
  buffer : Byte
  bufEmpty : Bool
  shift : Byte
  bits : Nat
  silence : Bool
  irq : Bool
  deriving DecidableEq, Repr

/-- The audio unit (63_apu.md R620). -/
structure Apu where
  pulse1 : Pulse
  pulse2 : Pulse
  triangle : Triangle
  noise : Noise
  dmc : Dmc
  fcMode : Bool
  fcInhibit : Bool
  fcCycle : Nat
  frameIrq : Bool
  odd : Bool
  samplePhase : Rat
  queue : List Rat
  deriving DecidableEq, Repr

/-- The scheduler's mode (64_scheduler.md R710). -/
inductive RunMode where
  | stopped
  | running
  | paused
  deriving DecidableEq, Repr

/-- The scheduler (64_scheduler.md R710). Milliseconds are rationals (DESIGN CHOICE, log 9). -/
structure Sched where
  mode : RunMode
  acc : Rat
  frames : Nat
  dropped : Nat
  carry : Rat
  deriving DecidableEq, Repr

/-- The scheduler right after a power-on (64_scheduler.md R720). -/
def Sched.powerOn : Sched where
  mode := .running
  acc := 0
  frames := 0
  dropped := 0
  carry := 0

/-- The whole machine (10_state.md R49). -/
structure State where
  a : Byte
  x : Byte
  y : Byte
  sp : Byte
  p : Byte
  pc : Word
  cycles : Nat
  nmiPending : Bool
  /-- The kept refusal mark: the unassigned opcode and its address (60_exceptions.md R425). -/
  refusal : Option (Byte × Word)
  ram : Memory
  cart : Cart
  pads : Pads
  ppu : Ppu
  apu : Apu
  sched : Sched
  /-- The model's own: the parameters of 00_scope.md R12, which no step changes (log 4). -/
  params : Params
  /-- The model's own: `cost` of 60_exceptions.md R400, of the step under way or the last one (log 6). -/
  cost : Nat
  /-- The model's own: how many controller reloads have drawn the buttons (log 5). -/
  draws : Nat
  deriving DecidableEq, Repr

/-- Why the machine stops with a fault. -/
inductive Fault where
  /-- A stuck state: raised by the catch-up when its loop, `while k < cost` of 60_exceptions.md R400, never ends, so that the
  spec's step has no end either. That takes a looping DMC sample and a DMC_STALL of at least `8 * RATE[rate_idx]` (432 or more),
  where each fetch adds as many cycles as pass until the next one (63_apu.md R671, R677). Safe: the model stops (log 7). -/
  | catchUpDiverged
  /-- A stuck state: raised by the scheduler's `run` and `advance` (never by `step`) when a loop of 64_scheduler.md R700 or R711
  never ends, so that the spec's call has no end either. That takes a CYCLES parameter that gives instructions no cycle, or a
  FRAME_PERIOD that is not positive. Safe: the model stops (log 9). -/
  | runDiverged
  deriving DecidableEq, Repr

/-- Why a step has no meaning. -/
inductive Refusal where
  /-- An instruction without a meaning yet, by its mnemonic; raised by no arm of `exec` now. Safe: the model stops. -/
  | notModelled (mnemonic : String)
  /-- Raised by the step whose opcode byte is unassigned, and by every later step: `refuse(unassigned_opcode(op, PC))`
  (30_encoding.md R131, 60_exceptions.md R425). It is the spec's own outcome. Safe: the model stops. -/
  | unassignedOpcode (op : Byte) (pc : Word)
  /-- Raised by a step in the modes `stopped` and `paused`, in which "no step runs" (60_exceptions.md R456; log 8). Safe: the
  model stops. -/
  | notRunning (mode : RunMode)
  deriving DecidableEq, Repr

/-- An envelope at power-on (70_reset_and_hazards.md R745). -/
def Envelope.powerOn : Envelope where
  const := false
  vol := 0
  start := false
  div := 0
  decay := 0

/-- A pulse channel at power-on (70_reset_and_hazards.md R745). -/
def Pulse.powerOn : Pulse where
  en := false
  duty := 0
  seq := 0
  period := 0
  timer := 0
  len := 0
  halt := false
  env := Envelope.powerOn
  sweep := { en := false, per := 0, neg := false, shift := 0, div := 0, reload := false }

/-- The triangle at power-on (70_reset_and_hazards.md R745). -/
def Triangle.powerOn : Triangle where
  en := false
  period := 0
  timer := 0
  seq := 0
  len := 0
  ctrl := false
  linReloadVal := 0
  lin := 0
  linReload := false

/-- The noise channel at power-on: `lfsr = 1` (70_reset_and_hazards.md R745). -/
def Noise.powerOn : Noise where
  en := false
  mode := false
  perIdx := 0
  timer := 0
  lfsr := 1
  len := 0
  halt := false
  env := Envelope.powerOn

/-- The DMC at power-on (70_reset_and_hazards.md R745). -/
def Dmc.powerOn : Dmc where
  irqEn := false
  loop := false
  rateIdx := 0
  timer := 0
  level := 0
  sampleAddr := 0xC000
  sampleLen := 1
  curAddr := 0xC000
  remaining := 0
  buffer := 0
  bufEmpty := true
  shift := 0
  bits := 8
  silence := true
  irq := false

/-- The APU at power-on (70_reset_and_hazards.md R745). -/
def Apu.powerOn : Apu where
  pulse1 := Pulse.powerOn
  pulse2 := Pulse.powerOn
  triangle := Triangle.powerOn
  noise := Noise.powerOn
  dmc := Dmc.powerOn
  fcMode := false
  fcInhibit := false
  fcCycle := 0
  frameIrq := false
  odd := false
  samplePhase := 0
  queue := []

/-- The PPU at power-on (70_reset_and_hazards.md R744), with every draw 0 (DESIGN CHOICE, log 2). -/
def Ppu.powerOnZero : Ppu where
  ctrl := 0
  mask := 0
  vblank := false
  sprite0Hit := false
  spriteOverflow := false
  oamaddr := 0
  v := 0
  t := 0
  fineX := 0
  w := false
  readBuf := 0
  ioLatch := 0
  nmiOut := false
  oam := []
  secOam := []
  ciram := []
  palette := []
  scanline := 0
  dot := 0
  oddFrame := false
  ntLatch := 0
  atLatch := 0
  ptLoLatch := 0
  ptHiLatch := 0
  bgLo := 0
  bgHi := 0
  atLo := 0
  atHi := 0
  sprCount := 0
  sprites := List.replicate 8 SpriteUnit.powerOn
  frame := []

/-- The machine right after `powerOn()` (70_reset_and_hazards.md R740, 10_state.md R50) with no cartridge loaded (log 1), the
parameters of `Params.default` (log 4) and every draw 0 (log 2). PC is `ABSENT_VALUE ++ ABSENT_VALUE` (61 R494). -/
def State.reset : State where
  a := 0
  x := 0
  y := 0
  sp := 0xFD
  p := 0x34
  pc := 0x0000
  cycles := 7
  nmiPending := false
  refusal := none
  ram := []
  cart := Cart.absent
  pads := Pads.powerOn
  ppu := Ppu.powerOnZero
  apu := Apu.powerOn
  sched := Sched.powerOn
  params := Params.default
  cost := 0
  draws := 0

end Sys2Proof.Machine
end

