-- ==== Sys2Proof/Machine/Memory.lean ====
section
/-! DEFINITION. Reading and writing one entry of a memory in canonical form. -/

namespace Sys2Proof.Machine

variable {n : Nat}

/-- The value at an address; an address that is not listed reads as 0 (DESIGN CHOICE, log 3). -/
def Memory.read : List (Nat × BitVec n) → Nat → BitVec n
  | [], _ => 0
  | (b, u) :: rest, a => if a = b then u else if a < b then 0 else Memory.read rest a

/-- Put a value in front of the entries above an address; the value 0 is not listed. -/
def Memory.cons (a : Nat) (v : BitVec n) (rest : List (Nat × BitVec n)) : List (Nat × BitVec n) :=
  if v = 0 then rest else (a, v) :: rest

/-- Write one value; the entries stay sorted and no entry is 0. -/
def Memory.write : List (Nat × BitVec n) → Nat → BitVec n → List (Nat × BitVec n)
  | [], a, v => Memory.cons a v []
  | (b, u) :: rest, a, v =>
    if a = b then Memory.cons a v rest
    else if a < b then Memory.cons a v ((b, u) :: rest)
    else (b, u) :: Memory.write rest a v

/-- Write a list of values at rising addresses from `a` on. -/
def Memory.writeAll (m : List (Nat × BitVec n)) (a : Nat) : List (BitVec n) → List (Nat × BitVec n)
  | [] => m
  | v :: vs => Memory.writeAll (Memory.write m a v) (a + 1) vs

/-- The memory whose bytes from address `a` on are the list's, and 0 elsewhere. -/
def Memory.ofList (a : Nat) : List (BitVec n) → List (Nat × BitVec n)
  | [] => []
  | v :: vs => Memory.cons a v (Memory.ofList (a + 1) vs)

/-- Every entry lies at or above `a`, in strictly rising order, and none is 0. -/
def Memory.sortedFrom : Nat → List (Nat × BitVec n) → Bool
  | _, [] => true
  | a, (b, u) :: rest => decide (a ≤ b) && decide (u ≠ 0) && Memory.sortedFrom (b + 1) rest

/-- The canonical form: addresses strictly rising, and no entry equal to what an unlisted address reads as. -/
def Memory.wf (m : List (Nat × BitVec n)) : Bool := Memory.sortedFrom 0 m

/-- Every entry's address is below `size`. -/
def Memory.within (size : Nat) (m : List (Nat × BitVec n)) : Bool := m.all fun c => decide (c.1 < size)

end Sys2Proof.Machine
end

