-- ==== Sys2Proof/Machine/Apu.lean ====
section
/-! DEFINITION. The APU: tables, registers, channels, frame sequencer and mixer (63_apu.md R620 to R692). The DMC's bus read is
in Machine/CatchUp.lean. -/

namespace Sys2Proof.Machine

/-! Tables (63_apu.md R623 to R627). -/

/-- `LEN[i]` (63_apu.md R623). -/
def lenTable : List Byte :=
  [10, 254, 20, 2, 40, 4, 80, 6, 160, 8, 60, 10, 14, 12, 26, 14] ++
  [12, 16, 24, 18, 48, 20, 96, 22, 192, 24, 72, 26, 16, 28, 32, 30]

/-- `LEN[index]` for the index in bits 7:3 of a length register's value. -/
def lenOf (d : Byte) : Byte := lenTable.getD (d.extractLsb' 3 5).toNat 0

/-- `DUTY[d][s]` (63_apu.md R624). -/
def dutyTable : List (List Bool) :=
  [[false, true, false, false, false, false, false, false],
   [false, true, true, false, false, false, false, false],
   [false, true, true, true, true, false, false, false],
   [true, false, false, true, true, true, true, true]]

/-- `DUTY[duty][seq]`. -/
def dutyAt (duty : BitVec 2) (seq : BitVec 3) : Bool := (dutyTable.getD duty.toNat []).getD seq.toNat false

/-- `TRI[s]`: 15 down to 0, then 0 up to 15 (63_apu.md R625). -/
def triAt (s : BitVec 5) : Nat := if s.toNat < 16 then 15 - s.toNat else s.toNat - 16

/-- `NOISE[i]` (63_apu.md R626). -/
def noiseTable : List Nat :=
  [4, 8, 16, 32, 64, 96, 128, 160, 202, 254, 380, 508, 762, 1016, 2034, 4068]

/-- `RATE[i]` (63_apu.md R627). -/
def rateTable : List Nat :=
  [428, 380, 340, 320, 286, 254, 226, 214, 190, 160, 142, 128, 106, 84, 72, 54]

/-! Shared sub-units (63_apu.md R645, R646). -/

/-- The length counter's half-frame clock (63_apu.md R645). -/
def clockLen (len : Byte) (halt : Bool) : Byte := if len ≠ 0 ∧ halt = false then len - 1 else len

/-- The envelope's quarter-frame clock; `halt` is its loop flag (63_apu.md R646). -/
def Envelope.clock (e : Envelope) (halt : Bool) : Envelope :=
  if e.start then { e with start := false, decay := 15, div := e.vol }
  else if e.div = 0 then
    { e with
      div := e.vol
      decay := if e.decay ≠ 0 then e.decay - 1 else if halt then 15 else e.decay }
  else { e with div := e.div - 1 }

/-- `envelope_out` (63_apu.md R646). -/
def Envelope.out (e : Envelope) : Nat := if e.const then e.vol.toNat else e.decay.toNat

/-! Pulse channels (63_apu.md R630 to R633, R650 to R652). -/

/-- `PulseTimerTick(k)` (63_apu.md R650). -/
def Pulse.tick (u : Pulse) : Pulse :=
  if u.timer = 0 then { u with timer := u.period, seq := u.seq + 1 } else { u with timer := u.timer - 1 }

/-- The sweep's target period; pulse 1 negates in one's complement, pulse 2 in two's complement (63_apu.md R651). -/
def Pulse.target (u : Pulse) (first : Bool) : Int :=
  let period : Int := u.period.toNat
  let change : Int := (u.period >>> u.sweep.shift.toNat).toNat
  if u.sweep.neg = false then period + change
  else if first then period - change - 1
  else period - change

/-- `muted` (63_apu.md R651). -/
def Pulse.muted (u : Pulse) (first : Bool) : Bool :=
  decide (u.period.toNat < 8) || decide (u.target first > 0x7FF)

/-- The sweep's half-frame clock (63_apu.md R651). -/
def Pulse.clockSweep (u : Pulse) (first : Bool) : Pulse :=
  let w := u.sweep
  let period :=
    if w.div = 0 ∧ w.en = true ∧ w.shift ≠ 0 ∧ u.muted first = false then BitVec.ofInt 11 (u.target first)
    else u.period
  let w' := if w.div = 0 ∨ w.reload = true then { w with div := w.per, reload := false } else { w with div := w.div - 1 }
  { u with period := period, sweep := w' }

/-- The pulse's output, 0 to 15 (63_apu.md R652). -/
def Pulse.out (u : Pulse) (first : Bool) : Nat :=
  if u.len = 0 ∨ u.muted first = true ∨ dutyAt u.duty u.seq = false then 0 else u.env.out

/-- Write 0x4000 or 0x4004 (63_apu.md R630). -/
def Pulse.writeDuty (u : Pulse) (d : Byte) : Pulse :=
  { u with
    duty := d.extractLsb' 6 2
    halt := d.getLsbD 5
    env := { u.env with const := d.getLsbD 4, vol := d.setWidth 4 } }

/-- Write 0x4001 or 0x4005 (63_apu.md R631). -/
def Pulse.writeSweep (u : Pulse) (d : Byte) : Pulse :=
  { u with sweep := { u.sweep with
      en := d.getLsbD 7
      per := d.extractLsb' 4 3
      neg := d.getLsbD 3
      shift := d.setWidth 3
      reload := true } }

/-- Write 0x4002 or 0x4006 (63_apu.md R632). -/
def Pulse.writePeriodLo (u : Pulse) (d : Byte) : Pulse := { u with period := u.period.extractLsb' 8 3 ++ d }

/-- Write 0x4003 or 0x4007 (63_apu.md R633). -/
def Pulse.writeLen (u : Pulse) (d : Byte) : Pulse :=
  { u with
    period := d.setWidth 3 ++ u.period.setWidth 8
    len := if u.en then lenOf d else u.len
    seq := 0
    env := { u.env with start := true } }

/-! Triangle (63_apu.md R634, R635, R660 to R662). -/

/-- `TriangleTimerTick()` (63_apu.md R660). -/
def Triangle.tick (u : Triangle) : Triangle :=
  if u.timer = 0 then
    { u with timer := u.period, seq := if u.len ≠ 0 ∧ u.lin ≠ 0 then u.seq + 1 else u.seq }
  else { u with timer := u.timer - 1 }

/-- The linear counter's quarter-frame clock (63_apu.md R661). -/
def Triangle.clockLinear (u : Triangle) : Triangle :=
  { u with
    lin := if u.linReload then u.linReloadVal else if u.lin ≠ 0 then u.lin - 1 else u.lin
    linReload := if u.ctrl = false then false else u.linReload }

/-- The triangle's output, 0 to 15 (63_apu.md R662). -/
def Triangle.out (u : Triangle) : Nat := if u.len = 0 then 0 else triAt u.seq

/-- Write 0x4008 (63_apu.md R634). -/
def Triangle.writeLinear (u : Triangle) (d : Byte) : Triangle :=
  { u with ctrl := d.getLsbD 7, linReloadVal := d.setWidth 7 }

/-- Write 0x400A (63_apu.md R635). -/
def Triangle.writePeriodLo (u : Triangle) (d : Byte) : Triangle :=
  { u with period := u.period.extractLsb' 8 3 ++ d }

/-- Write 0x400B (63_apu.md R635). -/
def Triangle.writeLen (u : Triangle) (d : Byte) : Triangle :=
  { u with
    period := d.setWidth 3 ++ u.period.setWidth 8
    len := if u.en then lenOf d else u.len
    linReload := true }

/-! Noise (63_apu.md R636, R637, R665, R666). -/

/-- `NoiseTimerTick()` (63_apu.md R665). -/
def Noise.tick (u : Noise) : Noise :=
  if u.timer = 0 then
    let fb := u.lfsr.getLsbD 0 ^^ (if u.mode then u.lfsr.getLsbD 6 else u.lfsr.getLsbD 1)
    { u with
      timer := BitVec.ofNat 12 (noiseTable.getD u.perIdx.toNat 0 - 1)
      lfsr := BitVec.ofBool fb ++ u.lfsr.extractLsb' 1 14 }
  else { u with timer := u.timer - 1 }

/-- The noise output, 0 to 15 (63_apu.md R666). -/
def Noise.out (u : Noise) : Nat := if u.len = 0 ∨ u.lfsr.getLsbD 0 = true then 0 else u.env.out

/-- Write 0x400C (63_apu.md R636). -/
def Noise.writeVol (u : Noise) (d : Byte) : Noise :=
  { u with halt := d.getLsbD 5, env := { u.env with const := d.getLsbD 4, vol := d.setWidth 4 } }

/-- Write 0x400E (63_apu.md R637). -/
def Noise.writePeriod (u : Noise) (d : Byte) : Noise := { u with mode := d.getLsbD 7, perIdx := d.setWidth 4 }

/-- Write 0x400F (63_apu.md R637). -/
def Noise.writeLen (u : Noise) (d : Byte) : Noise :=
  { u with len := if u.en then lenOf d else u.len, env := { u.env with start := true } }

/-! DMC (63_apu.md R638, R639, R670 to R676). -/

/-- `DmcStep(level, b)` under DMC_LIMIT (63_apu.md R675). -/
def dmcStep (lim : DmcLimit) (level : BitVec 7) (b : Bool) : BitVec 7 :=
  match lim, b with
  | .clamp, true => BitVec.ofNat 7 (min 127 (level.toNat + 2))
  | .clamp, false => BitVec.ofNat 7 (level.toNat - 2)
  | .hold, true => if level.toNat ≤ 125 then level + 2 else level
  | .hold, false => if level.toNat ≥ 2 then level - 2 else level

/-- `RATE[rate_idx]`: the CPU cycles between two clocks of the output unit (63_apu.md R627, R670). -/
def Dmc.rate (u : Dmc) : Nat := rateTable.getD u.rateIdx.toNat 0

/-- The output unit's part of `DmcTimerTick()`, when its timer has expired (63_apu.md R671). -/
def Dmc.outputClock (u : Dmc) (lim : DmcLimit) : Dmc :=
  let u' := { u with
    timer := BitVec.ofNat 9 (u.rate - 1)
    level := if u.silence then u.level else dmcStep lim u.level (u.shift.getLsbD 0)
    shift := u.shift >>> 1
    bits := u.bits - 1 }
  if u'.bits = 0 then
    if u'.bufEmpty then { u' with bits := 8, silence := true }
    else { u' with bits := 8, silence := false, shift := u'.buffer, bufEmpty := true }
  else u'

/-- `DmcTimerTick()` (63_apu.md R671). -/
def Dmc.tick (u : Dmc) (lim : DmcLimit) : Dmc :=
  if u.timer = 0 then u.outputClock lim else { u with timer := u.timer - 1 }

/-- Whether the sample reader reads a byte now (63_apu.md R672). -/
def Dmc.wantsByte (u : Dmc) : Bool := u.bufEmpty && u.remaining != 0

/-- The reader's state after it has read a byte (63_apu.md R672, R676). -/
def Dmc.takeByte (u : Dmc) (b : Byte) : Dmc :=
  let u' := { u with
    buffer := b
    bufEmpty := false
    curAddr := if u.curAddr = 0xFFFF then 0x8000 else u.curAddr + 1
    remaining := u.remaining - 1 }
  if u'.remaining = 0 then
    if u'.loop then { u' with curAddr := u'.sampleAddr, remaining := u'.sampleLen }
    else if u'.irqEn then { u' with irq := true }
    else u'
  else u'

/-- Write 0x4010 (63_apu.md R638). -/
def Dmc.writeCtrl (u : Dmc) (d : Byte) : Dmc :=
  { u with
    irqEn := d.getLsbD 7
    loop := d.getLsbD 6
    rateIdx := d.setWidth 4
    irq := if d.getLsbD 7 then u.irq else false }

/-- Write 0x4011 (63_apu.md R638). -/
def Dmc.writeLevel (u : Dmc) (d : Byte) : Dmc := { u with level := d.setWidth 7 }

/-- Write 0x4012: `0xC000 + 64 * d` (63_apu.md R639). -/
def Dmc.writeAddr (u : Dmc) (d : Byte) : Dmc := { u with sampleAddr := 0xC000 + (d.setWidth 16 <<< 6) }

/-- Write 0x4013: `16 * d + 1` (63_apu.md R639). -/
def Dmc.writeLen (u : Dmc) (d : Byte) : Dmc := { u with sampleLen := (d.setWidth 12 <<< 4) + 1 }

/-- The DMC's part of a write to 0x4015 (63_apu.md R640). -/
def Dmc.writeEnable (u : Dmc) (on : Bool) : Dmc :=
  let u' := { u with irq := false }
  if on = false then { u' with remaining := 0 }
  else if u.remaining = 0 then { u' with curAddr := u.sampleAddr, remaining := u.sampleLen }
  else u'

/-! Frame sequencer (63_apu.md R680 to R683). -/

/-- `QuarterFrame()` (63_apu.md R681). -/
def Apu.quarterFrame (u : Apu) : Apu :=
  { u with
    pulse1 := { u.pulse1 with env := u.pulse1.env.clock u.pulse1.halt }
    pulse2 := { u.pulse2 with env := u.pulse2.env.clock u.pulse2.halt }
    noise := { u.noise with env := u.noise.env.clock u.noise.halt }
    triangle := u.triangle.clockLinear }

/-- A pulse channel's half-frame clock: length counter and sweep (63_apu.md R682). -/
def Pulse.halfFrame (u : Pulse) (first : Bool) : Pulse :=
  { u.clockSweep first with len := clockLen u.len u.halt }

/-- `HalfFrame()` (63_apu.md R682). -/
def Apu.halfFrame (u : Apu) : Apu :=
  { u with
    pulse1 := u.pulse1.halfFrame true
    pulse2 := u.pulse2.halfFrame false
    triangle := { u.triangle with len := clockLen u.triangle.len u.triangle.ctrl }
    noise := { u.noise with len := clockLen u.noise.len u.noise.halt } }

/-- The last step of the 4-step sequence sets the frame IRQ flag unless it is inhibited (63_apu.md R680, R683). -/
def Apu.raiseFrameIrq (u : Apu) : Apu := if u.fcInhibit then u else { u with frameIrq := true }

/-- `FrameSequencerTick()` (63_apu.md R680). -/
def Apu.sequencerTick (u : Apu) : Apu :=
  let u := { u with fcCycle := u.fcCycle + 1 }
  if u.fcCycle = 7457 then u.quarterFrame
  else if u.fcCycle = 14913 then u.quarterFrame.halfFrame
  else if u.fcCycle = 22371 then u.quarterFrame
  else if u.fcMode = false then
    if u.fcCycle = 29829 then u.quarterFrame.halfFrame.raiseFrameIrq
    else if u.fcCycle = 29830 then { u with fcCycle := 0 }
    else u
  else
    if u.fcCycle = 37281 then u.quarterFrame.halfFrame
    else if u.fcCycle = 37282 then { u with fcCycle := 0 }
    else u

/-! Registers (63_apu.md R630 to R642). -/

/-- Write 0x4015, the channel enables (63_apu.md R640). -/
def Apu.writeEnable (u : Apu) (d : Byte) : Apu :=
  { u with
    pulse1 := { u.pulse1 with en := d.getLsbD 0, len := if d.getLsbD 0 then u.pulse1.len else 0 }
    pulse2 := { u.pulse2 with en := d.getLsbD 1, len := if d.getLsbD 1 then u.pulse2.len else 0 }
    triangle := { u.triangle with en := d.getLsbD 2, len := if d.getLsbD 2 then u.triangle.len else 0 }
    noise := { u.noise with en := d.getLsbD 3, len := if d.getLsbD 3 then u.noise.len else 0 }
    dmc := u.dmc.writeEnable (d.getLsbD 4) }

/-- Write 0x4017, the frame counter (63_apu.md R642). -/
def Apu.writeFrameCounter (u : Apu) (d : Byte) : Apu :=
  let u := { u with
    fcMode := d.getLsbD 7
    fcInhibit := d.getLsbD 6
    frameIrq := if d.getLsbD 6 then false else u.frameIrq
    fcCycle := 0 }
  if d.getLsbD 7 then u.quarterFrame.halfFrame else u

/-- `ApuWrite(a, d)` for 0x4000 to 0x4013, 0x4015 and 0x4017; 0x4009 and 0x400D are unused (63_apu.md R630 to R642). -/
def Apu.write (u : Apu) (a : Word) (d : Byte) : Apu :=
  match a.toNat with
  | 0x4000 => { u with pulse1 := u.pulse1.writeDuty d }
  | 0x4001 => { u with pulse1 := u.pulse1.writeSweep d }
  | 0x4002 => { u with pulse1 := u.pulse1.writePeriodLo d }
  | 0x4003 => { u with pulse1 := u.pulse1.writeLen d }
  | 0x4004 => { u with pulse2 := u.pulse2.writeDuty d }
  | 0x4005 => { u with pulse2 := u.pulse2.writeSweep d }
  | 0x4006 => { u with pulse2 := u.pulse2.writePeriodLo d }
  | 0x4007 => { u with pulse2 := u.pulse2.writeLen d }
  | 0x4008 => { u with triangle := u.triangle.writeLinear d }
  | 0x400A => { u with triangle := u.triangle.writePeriodLo d }
  | 0x400B => { u with triangle := u.triangle.writeLen d }
  | 0x400C => { u with noise := u.noise.writeVol d }
  | 0x400E => { u with noise := u.noise.writePeriod d }
  | 0x400F => { u with noise := u.noise.writeLen d }
  | 0x4010 => { u with dmc := u.dmc.writeCtrl d }
  | 0x4011 => { u with dmc := u.dmc.writeLevel d }
  | 0x4012 => { u with dmc := u.dmc.writeAddr d }
  | 0x4013 => { u with dmc := u.dmc.writeLen d }
  | 0x4015 => u.writeEnable d
  | 0x4017 => u.writeFrameCounter d
  | _ => u

/-- The value of 0x4015; `open5` is `OPEN_BUS(0x4015)[5]` (63_apu.md R641). -/
def Apu.status (u : Apu) (open5 : Bool) : Byte :=
  BitVec.ofBool u.dmc.irq ++ BitVec.ofBool u.frameIrq ++ BitVec.ofBool open5 ++
  BitVec.ofBool (u.dmc.remaining != 0) ++ BitVec.ofBool (u.noise.len != 0) ++ BitVec.ofBool (u.triangle.len != 0) ++
  BitVec.ofBool (u.pulse2.len != 0) ++ BitVec.ofBool (u.pulse1.len != 0)

/-- `irq_line = apu.frame_irq OR apu.dmc_irq` (10_state.md R47). -/
def Apu.irqLine (u : Apu) : Bool := u.frameIrq || u.dmc.irq

/-! Mixing and sampling (63_apu.md R690, R691). -/

/-- `Mix()`: the sum of the five outputs over 187 (63_apu.md R691). -/
def Apu.mix (u : Apu) : Rat :=
  ((u.pulse1.out true + u.pulse2.out false + u.triangle.out + u.noise.out + u.dmc.level.toNat : Nat) : Rat) / 187

/-- Whether `SampleTick()` takes a sample now (63_apu.md R690). -/
def Apu.sampleDue (u : Apu) (pr : Params) : Bool := decide (u.samplePhase + 1 ≥ pr.cyclesPerSample)

/-- `SampleTick()` (63_apu.md R690). -/
def Apu.sampleTick (u : Apu) (pr : Params) : Apu :=
  { u with
    samplePhase := if u.sampleDue pr then u.samplePhase + 1 - pr.cyclesPerSample else u.samplePhase + 1
    queue := if u.sampleDue pr then u.queue ++ [u.mix] else u.queue }

/-- The part of `ApuTick()` before the sample reader: sequencer, triangle, pulses on odd cycles, noise, DMC timer
(63_apu.md R621). -/
def Apu.tickUnits (u : Apu) (pr : Params) : Apu :=
  let u := u.sequencerTick
  { u with
    triangle := u.triangle.tick
    pulse1 := if u.odd then u.pulse1.tick else u.pulse1
    pulse2 := if u.odd then u.pulse2.tick else u.pulse2
    noise := u.noise.tick
    dmc := u.dmc.tick pr.dmcLimit }

/-- The part of `ApuTick()` after the sample reader: the parity flips, then the subsampler (63_apu.md R621). -/
def Apu.tickEnd (u : Apu) (pr : Params) : Apu := ({ u with odd := !u.odd } : Apu).sampleTick pr

end Sys2Proof.Machine
end

