-- ==== Sys2Proof/Machine/Cartridge.lean ====
section
/-! DEFINITION. The cartridge: bank windows, its CPU and PPU sides, and the MMC1 serial register (61_bus_cartridge.md R480 to
R503). -/

namespace Sys2Proof.Machine

/-- `OPEN_BUS(addr)`, default `addr >> 8` (20_memory.md R79). -/
def openBus (pr : Params) (a : Word) : Byte :=
  (pr.openBusOverrides.lookup a.toNat).getD (hiByte a)

/-- MMC1 `prg_mode`, bits 3:2 of `control` (61 R501). -/
def Mmc1.prgMode (r : Mmc1) : BitVec 2 := r.control.extractLsb' 2 2

/-- MMC1 `chr_mode`, bit 4 of `control` (61 R501). -/
def Mmc1.chrMode (r : Mmc1) : Bool := r.control.getLsbD 4

/-- MMC1 mirroring, bits 1:0 of `control` (61 R501). -/
def Mmc1.mirroring (r : Mmc1) : Mirroring :=
  match (r.control.extractLsb' 0 2).toNat with
  | 0 => .singleLow
  | 1 => .singleHigh
  | 2 => .vertical
  | _ => .horizontal

/-- The mirroring in force: MMC1's own for mapper 1, the header's otherwise, horizontal with no cartridge
(61 R483, R487). -/
def Cart.mirrorMode (c : Cart) : Mirroring :=
  if c.present = false then .horizontal
  else match c.mapperKind with
    | .nrom => c.mirroring
    | .mmc1 => c.mmc1.mirroring

/-- MMC1 PRG banking (61 R503). -/
def Mmc1.prgWindow (r : Mmc1) (n : Nat) (upper : Bool) : Nat :=
  let b := (r.prg.setWidth 4).toNat
  match r.prgMode.toNat, upper with
  | 2, false => 0
  | 2, true => b % n
  | 3, false => b % n
  | 3, true => n - 1
  | _, false => (b / 2 * 2) % n
  | _, true => (b / 2 * 2 + 1) % n

/-- `window(w)`: the PRG bank at 0x8000 (`upper` false) or at 0xC000 (`upper` true) (61 R490, R503). -/
def Cart.prgWindow (c : Cart) (upper : Bool) : Nat :=
  match c.mapperKind with
  | .nrom => if upper then c.nPrg - 1 else 0
  | .mmc1 => c.mmc1.prgWindow c.nPrg upper

/-- MMC1 CHR banking (61 R502). -/
def Mmc1.chrWindow (r : Mmc1) (n : Nat) (upper : Bool) : Nat :=
  match r.chrMode, upper with
  | false, false => (r.chr0.toNat / 2 * 2) % n
  | false, true => (r.chr0.toNat / 2 * 2 + 1) % n
  | true, false => r.chr0.toNat % n
  | true, true => r.chr1.toNat % n

/-- `chr_window(w)`: the CHR bank at PPU 0x0000 (`upper` false) or at 0x1000 (`upper` true) (61 R490, R502). -/
def Cart.chrWindow (c : Cart) (upper : Bool) : Nat :=
  match c.mapperKind with
  | .nrom => if upper then 1 else 0
  | .mmc1 => c.mmc1.chrWindow c.nChr4 upper

/-- The PRG-ROM byte a CPU address from 0x8000 on selects: bank `window(a[14])`, offset `a[13:0]` (61 R485). -/
def Cart.prgIndex (c : Cart) (a : Word) : Nat :=
  16384 * c.prgWindow (a.getLsbD 14) + (a.setWidth 14).toNat

/-- The CHR byte a pattern-table address selects: bank `chr_window(p[12])`, offset `p[11:0]` (61 R487). -/
def Cart.chrIndex (c : Cart) (p : PpuAddr) : Nat :=
  4096 * c.chrWindow (p.getLsbD 12) + (p.setWidth 12).toNat

/-- `CartRead(a)`, for addresses from 0x4020 on (61 R485, R494). -/
def Cart.read (c : Cart) (pr : Params) (a : Word) : Byte :=
  if c.present = false then pr.absentValue
  else if a.toNat < 0x6000 then openBus pr a
  else if a.toNat < 0x8000 then Memory.read c.prgRam (a.toNat - 0x6000)
  else Memory.read c.prgRom (c.prgIndex a)

/-- A serial write to the MMC1 (61 R500). -/
def Mmc1.write (r : Mmc1) (a : Word) (d : Byte) : Mmc1 :=
  if d.getLsbD 7 then { r with shift := 0, count := 0, control := r.control ||| 0x0C }
  else
    let sh := r.shift >>> 1 ||| (d.setWidth 1).setWidth 5 <<< 4
    if r.count + 1 = 5 then
      let r' := { r with shift := 0, count := 0 }
      match (a.extractLsb' 13 2).toNat with
      | 0 => { r' with control := sh }
      | 1 => { r' with chr0 := sh }
      | 2 => { r' with chr1 := sh }
      | _ => { r' with prg := sh }
    else { r with shift := sh, count := r.count + 1 }

/-- `MapperWrite(a, d)`: ignored by mapper 0 and the fallback (61 R490, R492, R498). -/
def Cart.mapperWrite (c : Cart) (a : Word) (d : Byte) : Cart :=
  match c.mapperKind with
  | .nrom => c
  | .mmc1 => { c with mmc1 := c.mmc1.write a d }

/-- `CartWrite(a, d)`, for addresses from 0x4020 on (61 R485, R494, R495). -/
def Cart.write (c : Cart) (a : Word) (d : Byte) : Cart :=
  if c.present = false then c
  else if a.toNat < 0x6000 then c
  else if a.toNat < 0x8000 then { c with prgRam := Memory.write c.prgRam (a.toNat - 0x6000) d }
  else c.mapperWrite a d

/-- `CartPpuRead(p)` (61 R487, R494). -/
def Cart.ppuRead (c : Cart) (pr : Params) (p : PpuAddr) : Byte :=
  if c.present = false then pr.absentValue else Memory.read c.chr (c.chrIndex p)

/-- `CartPpuWrite(p, d)`: only CHR-RAM takes it (61 R484, R487). -/
def Cart.ppuWrite (c : Cart) (p : PpuAddr) (d : Byte) : Cart :=
  if c.present && c.chrIsRam then { c with chr := Memory.write c.chr (c.chrIndex p) d } else c

/-- Which 1 KB nametable RAM serves a nametable address: CIRAM `k`, or half `k` of the cartridge's four-screen RAM. -/
inductive NtRam where
  | ciram (k : Nat)
  | extra (k : Nat)
  deriving DecidableEq, Repr

/-- `nametableSelect(p)`, by the nametable index `q = p[11:10]` (61 R487). -/
def nametableSelect (m : Mirroring) (p : PpuAddr) : NtRam :=
  let q := (p.extractLsb' 10 2).toNat
  match m with
  | .horizontal => .ciram (q / 2)
  | .vertical => .ciram (q % 2)
  | .singleLow => .ciram 0
  | .singleHigh => .ciram 1
  | .fourScreen => if q < 2 then .ciram q else .extra (q - 2)

end Sys2Proof.Machine
end

