-- ==== Sys2Proof/Machine/PpuBus.lean ====
section
/-! DEFINITION. The PPU's address space (62_ppu.md R550 to R557), the layout of `v` and `t` (R531, R583, R584), and the NMI
output (R567). -/

namespace Sys2Proof.Machine

/-! The fields of a VRAM address (62_ppu.md R531). -/

/-- Fine Y, bits 14:12. -/
def vFineY (v : BitVec 15) : BitVec 3 := v.extractLsb' 12 3

/-- Vertical nametable select, bit 11. -/
def vNtY (v : BitVec 15) : BitVec 1 := v.extractLsb' 11 1

/-- Horizontal nametable select, bit 10. -/
def vNtX (v : BitVec 15) : BitVec 1 := v.extractLsb' 10 1

/-- Coarse Y, bits 9:5. -/
def vCoarseY (v : BitVec 15) : BitVec 5 := v.extractLsb' 5 5

/-- Coarse X, bits 4:0. -/
def vCoarseX (v : BitVec 15) : BitVec 5 := v.extractLsb' 0 5

/-- A VRAM address from its fields, `yyy NN YYYYY XXXXX`. -/
def vMake (fineY : BitVec 3) (ntY ntX : BitVec 1) (coarseY coarseX : BitVec 5) : BitVec 15 :=
  fineY ++ ntY ++ ntX ++ coarseY ++ coarseX

/-- `IncX()` (62_ppu.md R583). -/
def incX (v : BitVec 15) : BitVec 15 :=
  if vCoarseX v = 31 then vMake (vFineY v) (vNtY v) (~~~vNtX v) (vCoarseY v) 0
  else vMake (vFineY v) (vNtY v) (vNtX v) (vCoarseY v) (vCoarseX v + 1)

/-- `IncY()` (62_ppu.md R584). -/
def incY (v : BitVec 15) : BitVec 15 :=
  if vFineY v ≠ 7 then vMake (vFineY v + 1) (vNtY v) (vNtX v) (vCoarseY v) (vCoarseX v)
  else if vCoarseY v = 29 then vMake 0 (~~~vNtY v) (vNtX v) 0 (vCoarseX v)
  else if vCoarseY v = 31 then vMake 0 (vNtY v) (vNtX v) 0 (vCoarseX v)
  else vMake 0 (vNtY v) (vNtX v) (vCoarseY v + 1) (vCoarseX v)

/-- Copy the horizontal bits of `t` into `v` (62_ppu.md R585). -/
def copyHoriz (t v : BitVec 15) : BitVec 15 :=
  vMake (vFineY v) (vNtY v) (vNtX t) (vCoarseY v) (vCoarseX t)

/-- Copy the vertical bits of `t` into `v` (62_ppu.md R585). -/
def copyVert (t v : BitVec 15) : BitVec 15 :=
  vMake (vFineY t) (vNtY t) (vNtX v) (vCoarseY t) (vCoarseX v)

/-! Derived signals (62_ppu.md R534). -/

/-- `rendering = mask[3] OR mask[4]`. -/
def Ppu.rendering (p : Ppu) : Bool := p.mask.getLsbD 3 || p.mask.getLsbD 4

/-- `visible = (scanline <= 239)`. -/
def Ppu.visible (p : Ppu) : Bool := decide (p.scanline ≤ 239)

/-- `render_line = (scanline <= 239) OR (scanline = 261)`. -/
def Ppu.renderLine (p : Ppu) : Bool := decide (p.scanline ≤ 239) || decide (p.scanline = 261)

/-- `inc = 32 if ctrl[2] = 1 else 1`. -/
def Ppu.inc (p : Ppu) : BitVec 15 := if p.ctrl.getLsbD 2 then 32 else 1

/-- `bg_table = 0x1000 * ctrl[4]`. -/
def Ppu.bgTable (p : Ppu) : PpuAddr := if p.ctrl.getLsbD 4 then 0x1000 else 0

/-- `spr_table = 0x1000 * ctrl[3]`. -/
def Ppu.sprTable (p : Ppu) : PpuAddr := if p.ctrl.getLsbD 3 then 0x1000 else 0

/-- `h = 16 if ctrl[5] = 1 else 8`, the sprite height. -/
def Ppu.spriteHeight (p : Ppu) : Nat := if p.ctrl.getLsbD 5 then 16 else 8

/-! Palette (62_ppu.md R555 to R557). -/

/-- `PalIndex(i)` under PALETTE_ALIAS (62_ppu.md R556). -/
def palIndex (al : PaletteAlias) (i : BitVec 5) : Nat :=
  match al with
  | .doc => if i.toNat % 4 = 0 then 0 else i.toNat
  | .hardware => if i = 16 ∨ i = 20 ∨ i = 24 ∨ i = 28 then i.toNat - 16 else i.toNat

/-- `PaletteRead(p)` for the palette entry `p[4:0]` (62_ppu.md R557). -/
def Ppu.paletteRead (p : Ppu) (pr : Params) (i : BitVec 5) : BitVec 6 :=
  Memory.read p.palette (palIndex pr.paletteAlias i) &&& (if p.mask.getLsbD 0 then 0x30 else 0x3F)

/-! Nametables (62_ppu.md R552). -/

/-- The nametable byte at a PPU address in 0x2000 to 0x3EFF. -/
def Ppu.ntRead (p : Ppu) (c : Cart) (addr : PpuAddr) : Byte :=
  let o := (addr.setWidth 10).toNat
  match nametableSelect c.mirrorMode addr with
  | .ciram k => Memory.read p.ciram (1024 * k + o)
  | .extra k => Memory.read c.vramExtra (1024 * k + o)

/-- `PpuRead(p)` (62_ppu.md R550). A palette byte's bits 7:6 are 0 here; PPUDATA supplies them from the I/O latch (R547). -/
def Ppu.busRead (p : Ppu) (c : Cart) (pr : Params) (addr : PpuAddr) : Byte :=
  if addr.toNat < 0x2000 then c.ppuRead pr addr
  else if addr.toNat < 0x3F00 then p.ntRead c addr
  else (p.paletteRead pr (addr.setWidth 5)).setWidth 8

/-- The machine after a nametable byte is written. -/
def State.ntWrite (s : State) (addr : PpuAddr) (d : Byte) : State :=
  let o := (addr.setWidth 10).toNat
  match nametableSelect s.cart.mirrorMode addr with
  | .ciram k => { s with ppu := { s.ppu with ciram := Memory.write s.ppu.ciram (1024 * k + o) d } }
  | .extra k => { s with cart := { s.cart with vramExtra := Memory.write s.cart.vramExtra (1024 * k + o) d } }

/-- `PpuWrite(p, d)` (62_ppu.md R550, R552, R555). -/
def State.ppuBusWrite (s : State) (addr : PpuAddr) (d : Byte) : State :=
  if addr.toNat < 0x2000 then { s with cart := s.cart.ppuWrite addr d }
  else if addr.toNat < 0x3F00 then s.ntWrite addr d
  else
    let i := palIndex s.params.paletteAlias (addr.setWidth 5)
    { s with ppu := { s.ppu with palette := Memory.write s.ppu.palette i (d.setWidth 6) } }

/-! The NMI output (62_ppu.md R567). -/

/-- `nmi_out = vblank AND ctrl[7]`. -/
def Ppu.nmiLevel (p : Ppu) : Bool := p.vblank && p.ctrl.getLsbD 7

/-- Re-evaluate the NMI output; a rise sets the CPU's latch (62_ppu.md R567, 10_state.md R46). -/
def State.nmiEval (s : State) : State :=
  { s with
    nmiPending := s.nmiPending || (s.ppu.nmiLevel && !s.ppu.nmiOut)
    ppu := { s.ppu with nmiOut := s.ppu.nmiLevel } }

end Sys2Proof.Machine
end

