-- ==== Sys2Proof/Machine/PpuRegs.lean ====
section
/-! DEFINITION. The eight PPU registers as the CPU reaches them (62_ppu.md R533 to R547). -/

namespace Sys2Proof.Machine

/-- The value of PPUSTATUS (62_ppu.md R537). -/
def Ppu.status (p : Ppu) : Byte :=
  BitVec.ofBool p.vblank ++ BitVec.ofBool p.sprite0Hit ++ BitVec.ofBool p.spriteOverflow ++ p.ioLatch.setWidth 5

/-- Read PPUSTATUS: the value, then `vblank` and `w` fall and the latch takes bits 7:5 (62_ppu.md R533, R541). The latch's bits
4:0 are those returned, so it becomes the value. -/
def State.readStatus (s : State) : Byte × State :=
  let d := s.ppu.status
  (d, ({ s with ppu := { s.ppu with vblank := false, w := false, ioLatch := d } } : State).nmiEval)

/-- The byte OAMDATA reads: bits 4:2 of an attribute byte read as 0 (62_ppu.md R539). -/
def Ppu.oamData (p : Ppu) : Byte :=
  let d := Memory.read p.oam p.oamaddr.toNat
  if p.oamaddr.toNat % 4 = 2 then d &&& 0xE3 else d

/-- Read OAMDATA (62_ppu.md R533, R539). -/
def State.readOamData (s : State) : Byte × State :=
  let d := s.ppu.oamData
  (d, { s with ppu := { s.ppu with ioLatch := d } })

/-- The byte PPUDATA reads (62_ppu.md R547). -/
def Ppu.dataValue (p : Ppu) (pr : Params) : Byte :=
  let addr : PpuAddr := p.v.setWidth 14
  if addr.toNat < 0x3F00 then p.readBuf
  else (p.ioLatch &&& 0xC0) ||| (p.paletteRead pr (addr.setWidth 5)).setWidth 8

/-- The byte PPUDATA puts into its read buffer (62_ppu.md R545, R547). -/
def Ppu.dataRefill (p : Ppu) (c : Cart) (pr : Params) : Byte :=
  let addr : PpuAddr := p.v.setWidth 14
  if addr.toNat < 0x3F00 then p.busRead c pr addr else p.busRead c pr (addr - 0x1000)

/-- Read PPUDATA (62_ppu.md R533, R547). -/
def State.readPpuData (s : State) : Byte × State :=
  let d := s.ppu.dataValue s.params
  (d, { s with ppu := { s.ppu with
          readBuf := s.ppu.dataRefill s.cart s.params
          v := s.ppu.v + s.ppu.inc
          ioLatch := d } })

/-- `PpuRegRead(r)` (62_ppu.md R540). A write-only register reads the I/O latch (R533). -/
def State.ppuRegRead (s : State) (r : BitVec 3) : Byte × State :=
  match r.toNat with
  | 2 => s.readStatus
  | 4 => s.readOamData
  | 7 => s.readPpuData
  | _ => (s.ppu.ioLatch, s)

/-- Write PPUCTRL: `ctrl`, the nametable bits of `t`, and the NMI edge (62_ppu.md R535, R567). -/
def State.writePpuCtrl (s : State) (d : Byte) : State :=
  ({ s with ppu := { s.ppu with
      ctrl := d
      t := vMake (vFineY s.ppu.t) (d.extractLsb' 1 1) (d.extractLsb' 0 1) (vCoarseY s.ppu.t) (vCoarseX s.ppu.t) } } : State).nmiEval

/-- Write OAMDATA (62_ppu.md R539). -/
def Ppu.writeOamData (p : Ppu) (d : Byte) : Ppu :=
  { p with oam := Memory.write p.oam p.oamaddr.toNat d, oamaddr := p.oamaddr + 1 }

/-- Write PPUSCROLL, X first and Y second (62_ppu.md R542). -/
def Ppu.writeScroll (p : Ppu) (d : Byte) : Ppu :=
  if p.w = false then
    { p with
      t := vMake (vFineY p.t) (vNtY p.t) (vNtX p.t) (vCoarseY p.t) (d.extractLsb' 3 5)
      fineX := d.setWidth 3
      w := true }
  else
    { p with
      t := vMake (d.setWidth 3) (vNtY p.t) (vNtX p.t) (d.extractLsb' 3 5) (vCoarseX p.t)
      w := false }

/-- Write PPUADDR, the high byte first (62_ppu.md R546). -/
def Ppu.writeAddr (p : Ppu) (d : Byte) : Ppu :=
  if p.w = false then { p with t := (0 : BitVec 1) ++ d.setWidth 6 ++ p.t.setWidth 8, w := true }
  else
    let t := p.t.extractLsb' 8 7 ++ d
    { p with t := t, v := t, w := false }

/-- Write PPUDATA (62_ppu.md R547). -/
def State.writePpuData (s : State) (d : Byte) : State :=
  let s' := s.ppuBusWrite (s.ppu.v.setWidth 14) d
  { s' with ppu := { s'.ppu with v := s.ppu.v + s.ppu.inc } }

/-- Set the I/O latch (62_ppu.md R533). -/
def State.latchPpu (s : State) (d : Byte) : State := { s with ppu := { s.ppu with ioLatch := d } }

/-- `PpuRegWrite(r, d)` (62_ppu.md R540). -/
def State.ppuRegWrite (s : State) (r : BitVec 3) (d : Byte) : State :=
  let s := s.latchPpu d
  match r.toNat with
  | 0 => s.writePpuCtrl d
  | 1 => { s with ppu := { s.ppu with mask := d } }
  | 3 => { s with ppu := { s.ppu with oamaddr := d } }
  | 4 => { s with ppu := s.ppu.writeOamData d }
  | 5 => { s with ppu := s.ppu.writeScroll d }
  | 6 => { s with ppu := s.ppu.writeAddr d }
  | 7 => s.writePpuData d
  | _ => s

end Sys2Proof.Machine
end

