-- ==== Sys2Proof/Machine/Bus.lean ====
section
/-! DEFINITION. The CPU bus: the dispatcher, the controller ports and OAM DMA (61_bus_cartridge.md R460 to R462, R510 to R516). -/

namespace Sys2Proof.Machine

/-! Controller ports (61_bus_cartridge.md R510, R511). -/

/-- Reload both shift registers from the host's buttons, two draws (61 R510; 64_scheduler.md R725). -/
def State.reloadPads (s : State) : State :=
  { s with
    pads := { s.pads with
      sr0 := Config.buttonDraw s.draws 0
      reads0 := 0
      sr1 := Config.buttonDraw s.draws 1
      reads1 := 0 }
    draws := s.draws + 1 }

/-- Reload one port's shift register from the host's buttons, one draw (61 R511; 64_scheduler.md R725). -/
def State.reloadPad (s : State) (port : Bool) : State :=
  if port then
    { s with pads := { s.pads with sr1 := Config.buttonDraw s.draws 1, reads1 := 0 }, draws := s.draws + 1 }
  else
    { s with pads := { s.pads with sr0 := Config.buttonDraw s.draws 0, reads0 := 0 }, draws := s.draws + 1 }

/-- `ControllerStrobe(d)` (61 R510). -/
def State.strobePads (s : State) (d : Byte) : State :=
  let s' := { s with pads := { s.pads with strobe := d.getLsbD 0 } }
  if d.getLsbD 0 then s'.reloadPads else s'

/-- Take the next bit of a port: the button bits in order, then 1 after 8 reads (61 R511). -/
def Pads.shiftOut (c : Pads) (port : Bool) : Bool × Pads :=
  if port then
    if c.reads1 < 8 then (c.sr1.getLsbD c.reads1, { c with reads1 := c.reads1 + 1 }) else (true, c)
  else
    if c.reads0 < 8 then (c.sr0.getLsbD c.reads0, { c with reads0 := c.reads0 + 1 }) else (true, c)

/-- `ControllerRead(p, a)`; port 2 when `port` is true (61 R511). -/
def State.readPad (s : State) (port : Bool) (a : Word) : Byte × State :=
  let s := if s.pads.strobe then s.reloadPad port else s
  let r := s.pads.shiftOut port
  ((openBus s.params a &&& 0xE0) ||| (BitVec.ofBool r.1).setWidth 8, { s with pads := r.2 })

/-! The dispatcher (61_bus_cartridge.md R460 to R462). -/

/-- The RAM byte an address below 0x2000 reaches (20_memory.md R72). -/
def ramIndex (a : Word) : Nat := (a.setWidth 11).toNat

/-- Read 0x4015: the status, then the frame IRQ flag falls (63_apu.md R641). -/
def State.readApuStatus (s : State) : Byte × State :=
  (s.apu.status ((openBus s.params 0x4015).getLsbD 5), { s with apu := { s.apu with frameIrq := false } })

/-- `CpuRead(a)`: the byte and the machine after the read's side effects (61 R460). -/
def State.cpuRead (s : State) (a : Word) : Byte × State :=
  if a.toNat < 0x2000 then (Memory.read s.ram (ramIndex a), s)
  else if a.toNat < 0x4000 then s.ppuRegRead (a.setWidth 3)
  else if a.toNat < 0x4015 then (openBus s.params a, s)
  else if a.toNat = 0x4015 then s.readApuStatus
  else if a.toNat = 0x4016 then s.readPad false a
  else if a.toNat = 0x4017 then s.readPad true a
  else if a.toNat < 0x4020 then (openBus s.params a, s)
  else (s.cart.read s.params a, s)

/-- Where OAM DMA puts its `i`-th byte, under OAM_DMA_TARGET (61 R515). -/
def State.dmaTarget (s : State) (i : Nat) : Nat :=
  match s.params.oamDmaTarget with
  | .doc => i
  | .oamaddr => (s.ppu.oamaddr + BitVec.ofNat 8 i).toNat

/-- Copy `n` bytes, from the `i`-th on, from the page at `base` into OAM (61 R515). -/
def State.dmaCopy (base : Word) : (n : Nat) → (i : Nat) → State → State
  | 0, _, s => s
  | n + 1, i, s =>
    let r := s.cpuRead (base + BitVec.ofNat 16 i)
    let s' := { r.2 with ppu := { r.2.ppu with oam := Memory.write r.2.ppu.oam (r.2.dmaTarget i) r.1 } }
    State.dmaCopy base n (i + 1) s'

/-- `dma_cycles`: 513, and one more if the cycle count at the end of the writing instruction is odd; `cost` holds the
instruction's base count here (61 R515, R516; log 6). -/
def State.dmaCycles (s : State) : Nat := 513 + (s.cycles + s.cost) % 2

/-- `OamDma(d)` (61 R515). -/
def State.oamDma (s : State) (d : Byte) : State :=
  let s' := State.dmaCopy (word d 0) 256 0 s
  { s' with cost := s'.cost + s.dmaCycles }

/-- `CpuWrite(a, d)` (61 R461). -/
def State.cpuWrite (s : State) (a : Word) (d : Byte) : State :=
  if a.toNat < 0x2000 then { s with ram := Memory.write s.ram (ramIndex a) d }
  else if a.toNat < 0x4000 then s.ppuRegWrite (a.setWidth 3) d
  else if a.toNat < 0x4014 then { s with apu := s.apu.write a d }
  else if a.toNat = 0x4014 then s.oamDma d
  else if a.toNat = 0x4015 then { s with apu := s.apu.write a d }
  else if a.toNat = 0x4016 then s.strobePads d
  else if a.toNat = 0x4017 then { s with apu := s.apu.write a d }
  else if a.toNat < 0x4020 then s
  else { s with cart := s.cart.write a d }

end Sys2Proof.Machine
end

