-- ==== Sys2Proof/Machine/Flags.lean ====
section
/-! DEFINITION. The bits of P, and every flag computation of the ALU (10_state.md R34 to R40; 41_arith_logic.md R200, R201). -/

namespace Sys2Proof.Machine

/-- A byte with bit `i` set to `b`. -/
def setBit (d : Byte) (i : Nat) (b : Bool) : Byte :=
  if b then d ||| (1#8 <<< i) else d &&& ~~~(1#8 <<< i)

/-! The flags of P (10_state.md R34). -/

/-- Carry, bit 0. -/
def State.flagC (s : State) : Bool := s.p.getLsbD 0

/-- Zero, bit 1. -/
def State.flagZ (s : State) : Bool := s.p.getLsbD 1

/-- Interrupt disable, bit 2. -/
def State.flagI (s : State) : Bool := s.p.getLsbD 2

/-- Decimal, bit 3. -/
def State.flagD (s : State) : Bool := s.p.getLsbD 3

/-- The stored B, bit 4. -/
def State.flagB (s : State) : Bool := s.p.getLsbD 4

/-- Overflow, bit 6. -/
def State.flagV (s : State) : Bool := s.p.getLsbD 6

/-- Negative, bit 7. -/
def State.flagN (s : State) : Bool := s.p.getLsbD 7

/-- `P.C <- b`. -/
def State.setC (s : State) (b : Bool) : State := { s with p := setBit s.p 0 b }

/-- `P.Z <- b`. -/
def State.setZ (s : State) (b : Bool) : State := { s with p := setBit s.p 1 b }

/-- `P.I <- b`. -/
def State.setI (s : State) (b : Bool) : State := { s with p := setBit s.p 2 b }

/-- `P.D <- b`. -/
def State.setD (s : State) (b : Bool) : State := { s with p := setBit s.p 3 b }

/-- `P.V <- b`. -/
def State.setV (s : State) (b : Bool) : State := { s with p := setBit s.p 6 b }

/-- `P.N <- b`. -/
def State.setN (s : State) (b : Bool) : State := { s with p := setBit s.p 7 b }

/-- `SetZN(d)`: Z if the byte is 0, N its bit 7 (00_scope.md R18, 10_state.md R37). -/
def State.setZN (s : State) (d : Byte) : State := (s.setZ (d == 0)).setN (d.getLsbD 7)

/-- The byte PHP and BRK push: bits 5 and 4 set (60_exceptions.md R411, 40 R181, 42 R280). -/
def statusBrk (p : Byte) : Byte := p ||| 0x30

/-- The byte NMI and IRQ push: bit 5 set, bit 4 clear (60_exceptions.md R411). -/
def statusInt (p : Byte) : Byte := (p &&& 0xEF) ||| 0x20

/-- What PLP and RTI load: bit 5 forced to 1 (10_state.md R35, 40 R183, 42 R281). -/
def statusPulled (d : Byte) : Byte := d ||| 0x20

/-! The pre-wrap values of the ALU contract (41_arith_logic.md R200). -/

/-- ADC: `A + M + P.C`. -/
def preAdd (a m : Byte) (c : Bool) : Nat := a.toNat + m.toNat + c.toNat

/-- SBC: `A + (~M) + P.C`. -/
def preSub (a m : Byte) (c : Bool) : Nat := a.toNat + (~~~m).toNat + c.toNat

/-- CMP, CPX, CPY: `R + (~M) + 1`. -/
def preCmp (r m : Byte) : Nat := r.toNat + (~~~m).toNat + 1

/-- ASL: `2*M`. -/
def preAsl (m : Byte) : Nat := 2 * m.toNat

/-- ROL: `2*M + P.C`. -/
def preRol (m : Byte) (c : Bool) : Nat := 2 * m.toNat + c.toNat

/-- The result byte `u8(s)`. -/
def wrap (s : Nat) : Byte := BitVec.ofNat 8 s

/-- Carry: the pre-wrap value exceeds 255. -/
def carryOf (s : Nat) : Bool := decide (s > 255)

/-- V of ADC: `((A ^ r) & (M ^ r))[7]` (41_arith_logic.md R201). -/
def overflowAdd (a m r : Byte) : Bool := ((a ^^^ r) &&& (m ^^^ r)).getLsbD 7

/-- V of SBC: `((A ^ M) & (A ^ r))[7]` (41_arith_logic.md R201, R206). -/
def overflowSub (a m r : Byte) : Bool := ((a ^^^ m) &&& (a ^^^ r)).getLsbD 7

/-- LSR's result `M >> 1` (41_arith_logic.md R231). -/
def lsrByte (m : Byte) : Byte := m >>> 1

/-- ROR's result `(P.C << 7) | (M >> 1)` (41_arith_logic.md R233). -/
def rorByte (m : Byte) (c : Bool) : Byte := BitVec.ofBool c ++ m.extractLsb' 1 7

end Sys2Proof.Machine
end

