-- ==== Sys2Proof/WellFormed.lean ====
section
/-! DEFINITION. Which operand forms each instruction has (the mode lists of 40_load_store.md, 41_arith_logic.md and
42_control.md, cross-checked with 30_encoding.md R130), and which bytes are unassigned (30_encoding.md R131). -/

namespace Sys2Proof

/-- The 105 unassigned opcode bytes, as 30_encoding.md R131 lists them. -/
def unassignedBytes : List Nat :=
  [0x02, 0x03, 0x04, 0x07, 0x0B, 0x0C, 0x0F, 0x12, 0x13, 0x14, 0x17, 0x1A, 0x1B, 0x1C, 0x1F] ++
  [0x22, 0x23, 0x27, 0x2B, 0x2F, 0x32, 0x33, 0x34, 0x37, 0x3A, 0x3B, 0x3C, 0x3F] ++
  [0x42, 0x43, 0x44, 0x47, 0x4B, 0x4F, 0x52, 0x53, 0x54, 0x57, 0x5A, 0x5B, 0x5C, 0x5F] ++
  [0x62, 0x63, 0x64, 0x67, 0x6B, 0x6F, 0x72, 0x73, 0x74, 0x77, 0x7A, 0x7B, 0x7C, 0x7F] ++
  [0x80, 0x82, 0x83, 0x87, 0x89, 0x8B, 0x8F, 0x92, 0x93, 0x97, 0x9B, 0x9C, 0x9E, 0x9F] ++
  [0xA3, 0xA7, 0xAB, 0xAF, 0xB2, 0xB3, 0xB7, 0xBB, 0xBF] ++
  [0xC2, 0xC3, 0xC7, 0xCB, 0xCF, 0xD2, 0xD3, 0xD4, 0xD7, 0xDA, 0xDB, 0xDC, 0xDF] ++
  [0xE2, 0xE3, 0xE7, 0xEB, 0xEF, 0xF2, 0xF3, 0xF4, 0xF7, 0xFA, 0xFB, 0xFC, 0xFF]

/-- imm, zp, zpx, abs, absx, absy, indx, indy: LDA, ADC, SBC, AND, ORA, EOR, CMP (40 R151, 41 R205 to R210). -/
def Src.isFull : Src → Bool
  | .imm _ => true
  | .mem (.zpy _) => false
  | .mem _ => true

/-- imm, zp, zpy, abs, absy: LDX (40 R152). -/
def Src.isLdx : Src → Bool
  | .imm _ | .mem (.zp _) | .mem (.zpy _) | .mem (.abs _) | .mem (.absy _) => true
  | _ => false

/-- imm, zp, zpx, abs, absx: LDY (40 R153). -/
def Src.isLdy : Src → Bool
  | .imm _ | .mem (.zp _) | .mem (.zpx _) | .mem (.abs _) | .mem (.absx _) => true
  | _ => false

/-- imm, zp, abs: CPX, CPY (41 R211, R212). -/
def Src.isCpxy : Src → Bool
  | .imm _ | .mem (.zp _) | .mem (.abs _) => true
  | _ => false

/-- zp, zpx, abs, absx, absy, indx, indy: STA (40 R154). -/
def Addr.isSta : Addr → Bool
  | .zpy _ => false
  | _ => true

/-- zp, zpy, abs: STX (40 R155). -/
def Addr.isStx : Addr → Bool
  | .zp _ | .zpy _ | .abs _ => true
  | _ => false

/-- zp, zpx, abs: STY (40 R156). -/
def Addr.isSty : Addr → Bool
  | .zp _ | .zpx _ | .abs _ => true
  | _ => false

/-- zp, abs: BIT (41 R213). -/
def Addr.isBit : Addr → Bool
  | .zp _ | .abs _ => true
  | _ => false

/-- zp, zpx, abs, absx: INC, DEC (41 R220, R221). -/
def Addr.isRmw : Addr → Bool
  | .zp _ | .zpx _ | .abs _ | .absx _ => true
  | _ => false

/-- acc, zp, zpx, abs, absx: ASL, LSR, ROL, ROR (41 R230 to R233). -/
def Rmw.isShift : Rmw → Bool
  | .acc => true
  | .mem m => m.isRmw

/-- An instruction is well formed when opcode_table.json has a row for its mnemonic and its mode. -/
def Instr.wellFormed : Instr → Bool
  | .lda m | .adc m | .sbc m | .and m | .ora m | .eor m | .cmp m => m.isFull
  | .ldx m => m.isLdx
  | .ldy m => m.isLdy
  | .cpx m | .cpy m => m.isCpxy
  | .sta m => m.isSta
  | .stx m => m.isStx
  | .sty m => m.isSty
  | .bit m => m.isBit
  | .inc m | .dec m => m.isRmw
  | .asl m | .lsr m | .rol m | .ror m => m.isShift
  | .unassigned op => unassignedBytes.contains op.toNat
  | .tax | .tay | .txa | .tya | .tsx | .txs | .pha | .php | .pla | .plp => true
  | .inx | .iny | .dex | .dey => true
  | .jmp _ | .jsr _ | .rts | .brk | .rti | .nop => true
  | .bcc _ | .bcs _ | .beq _ | .bmi _ | .bne _ | .bpl _ | .bvc _ | .bvs _ => true
  | .clc | .sec | .cli | .sei | .cld | .sed | .clv => true

end Sys2Proof
end

