-- ==== Sys2Proof/Decode.lean ====
section
/-! DEFINITION. The decoder, from the opcode map of 30_encoding.md R129, and after it the encoder, from the "Encoding" lines of
40_load_store.md, 41_arith_logic.md and 42_control.md. -/

namespace Sys2Proof

/-- Why a list of bytes is no instruction. Every opcode byte decodes (30_encoding.md R133); only missing bytes are refused. -/
inductive DecodeError where
  /-- There is no opcode byte. -/
  | noBytes
  /-- The opcode's operand bytes are missing. -/
  | truncated
  deriving DecidableEq, Repr

/-- The three formats of 30_encoding.md R111, each with the instruction its operand completes. -/
inductive Format where
  | f1 (i : Instr)
  | f2 (mk : Byte → Instr)
  | f3 (mk : Word → Instr)

/-- The opcode map (30_encoding.md R129); a byte that is not in it is unassigned (R131, R133). -/
def opcodeFormat (op : Byte) : Format :=
  match op.toNat with
  | 0x00 => .f1 .brk
  | 0x01 => .f2 fun b => .ora (.mem (.indx b))
  | 0x05 => .f2 fun b => .ora (.mem (.zp b))
  | 0x06 => .f2 fun b => .asl (.mem (.zp b))
  | 0x08 => .f1 .php
  | 0x09 => .f2 fun b => .ora (.imm b)
  | 0x0A => .f1 (.asl .acc)
  | 0x0D => .f3 fun w => .ora (.mem (.abs w))
  | 0x0E => .f3 fun w => .asl (.mem (.abs w))
  | 0x10 => .f2 fun b => .bpl b
  | 0x11 => .f2 fun b => .ora (.mem (.indy b))
  | 0x15 => .f2 fun b => .ora (.mem (.zpx b))
  | 0x16 => .f2 fun b => .asl (.mem (.zpx b))
  | 0x18 => .f1 .clc
  | 0x19 => .f3 fun w => .ora (.mem (.absy w))
  | 0x1D => .f3 fun w => .ora (.mem (.absx w))
  | 0x1E => .f3 fun w => .asl (.mem (.absx w))
  | 0x20 => .f3 fun w => .jsr w
  | 0x21 => .f2 fun b => .and (.mem (.indx b))
  | 0x24 => .f2 fun b => .bit (.zp b)
  | 0x25 => .f2 fun b => .and (.mem (.zp b))
  | 0x26 => .f2 fun b => .rol (.mem (.zp b))
  | 0x28 => .f1 .plp
  | 0x29 => .f2 fun b => .and (.imm b)
  | 0x2A => .f1 (.rol .acc)
  | 0x2C => .f3 fun w => .bit (.abs w)
  | 0x2D => .f3 fun w => .and (.mem (.abs w))
  | 0x2E => .f3 fun w => .rol (.mem (.abs w))
  | 0x30 => .f2 fun b => .bmi b
  | 0x31 => .f2 fun b => .and (.mem (.indy b))
  | 0x35 => .f2 fun b => .and (.mem (.zpx b))
  | 0x36 => .f2 fun b => .rol (.mem (.zpx b))
  | 0x38 => .f1 .sec
  | 0x39 => .f3 fun w => .and (.mem (.absy w))
  | 0x3D => .f3 fun w => .and (.mem (.absx w))
  | 0x3E => .f3 fun w => .rol (.mem (.absx w))
  | 0x40 => .f1 .rti
  | 0x41 => .f2 fun b => .eor (.mem (.indx b))
  | 0x45 => .f2 fun b => .eor (.mem (.zp b))
  | 0x46 => .f2 fun b => .lsr (.mem (.zp b))
  | 0x48 => .f1 .pha
  | 0x49 => .f2 fun b => .eor (.imm b)
  | 0x4A => .f1 (.lsr .acc)
  | 0x4C => .f3 fun w => .jmp (.abs w)
  | 0x4D => .f3 fun w => .eor (.mem (.abs w))
  | 0x4E => .f3 fun w => .lsr (.mem (.abs w))
  | 0x50 => .f2 fun b => .bvc b
  | 0x51 => .f2 fun b => .eor (.mem (.indy b))
  | 0x55 => .f2 fun b => .eor (.mem (.zpx b))
  | 0x56 => .f2 fun b => .lsr (.mem (.zpx b))
  | 0x58 => .f1 .cli
  | 0x59 => .f3 fun w => .eor (.mem (.absy w))
  | 0x5D => .f3 fun w => .eor (.mem (.absx w))
  | 0x5E => .f3 fun w => .lsr (.mem (.absx w))
  | 0x60 => .f1 .rts
  | 0x61 => .f2 fun b => .adc (.mem (.indx b))
  | 0x65 => .f2 fun b => .adc (.mem (.zp b))
  | 0x66 => .f2 fun b => .ror (.mem (.zp b))
  | 0x68 => .f1 .pla
  | 0x69 => .f2 fun b => .adc (.imm b)
  | 0x6A => .f1 (.ror .acc)
  | 0x6C => .f3 fun w => .jmp (.ind w)
  | 0x6D => .f3 fun w => .adc (.mem (.abs w))
  | 0x6E => .f3 fun w => .ror (.mem (.abs w))
  | 0x70 => .f2 fun b => .bvs b
  | 0x71 => .f2 fun b => .adc (.mem (.indy b))
  | 0x75 => .f2 fun b => .adc (.mem (.zpx b))
  | 0x76 => .f2 fun b => .ror (.mem (.zpx b))
  | 0x78 => .f1 .sei
  | 0x79 => .f3 fun w => .adc (.mem (.absy w))
  | 0x7D => .f3 fun w => .adc (.mem (.absx w))
  | 0x7E => .f3 fun w => .ror (.mem (.absx w))
  | 0x81 => .f2 fun b => .sta (.indx b)
  | 0x84 => .f2 fun b => .sty (.zp b)
  | 0x85 => .f2 fun b => .sta (.zp b)
  | 0x86 => .f2 fun b => .stx (.zp b)
  | 0x88 => .f1 .dey
  | 0x8A => .f1 .txa
  | 0x8C => .f3 fun w => .sty (.abs w)
  | 0x8D => .f3 fun w => .sta (.abs w)
  | 0x8E => .f3 fun w => .stx (.abs w)
  | 0x90 => .f2 fun b => .bcc b
  | 0x91 => .f2 fun b => .sta (.indy b)
  | 0x94 => .f2 fun b => .sty (.zpx b)
  | 0x95 => .f2 fun b => .sta (.zpx b)
  | 0x96 => .f2 fun b => .stx (.zpy b)
  | 0x98 => .f1 .tya
  | 0x99 => .f3 fun w => .sta (.absy w)
  | 0x9A => .f1 .txs
  | 0x9D => .f3 fun w => .sta (.absx w)
  | 0xA0 => .f2 fun b => .ldy (.imm b)
  | 0xA1 => .f2 fun b => .lda (.mem (.indx b))
  | 0xA2 => .f2 fun b => .ldx (.imm b)
  | 0xA4 => .f2 fun b => .ldy (.mem (.zp b))
  | 0xA5 => .f2 fun b => .lda (.mem (.zp b))
  | 0xA6 => .f2 fun b => .ldx (.mem (.zp b))
  | 0xA8 => .f1 .tay
  | 0xA9 => .f2 fun b => .lda (.imm b)
  | 0xAA => .f1 .tax
  | 0xAC => .f3 fun w => .ldy (.mem (.abs w))
  | 0xAD => .f3 fun w => .lda (.mem (.abs w))
  | 0xAE => .f3 fun w => .ldx (.mem (.abs w))
  | 0xB0 => .f2 fun b => .bcs b
  | 0xB1 => .f2 fun b => .lda (.mem (.indy b))
  | 0xB4 => .f2 fun b => .ldy (.mem (.zpx b))
  | 0xB5 => .f2 fun b => .lda (.mem (.zpx b))
  | 0xB6 => .f2 fun b => .ldx (.mem (.zpy b))
  | 0xB8 => .f1 .clv
  | 0xB9 => .f3 fun w => .lda (.mem (.absy w))
  | 0xBA => .f1 .tsx
  | 0xBC => .f3 fun w => .ldy (.mem (.absx w))
  | 0xBD => .f3 fun w => .lda (.mem (.absx w))
  | 0xBE => .f3 fun w => .ldx (.mem (.absy w))
  | 0xC0 => .f2 fun b => .cpy (.imm b)
  | 0xC1 => .f2 fun b => .cmp (.mem (.indx b))
  | 0xC4 => .f2 fun b => .cpy (.mem (.zp b))
  | 0xC5 => .f2 fun b => .cmp (.mem (.zp b))
  | 0xC6 => .f2 fun b => .dec (.zp b)
  | 0xC8 => .f1 .iny
  | 0xC9 => .f2 fun b => .cmp (.imm b)
  | 0xCA => .f1 .dex
  | 0xCC => .f3 fun w => .cpy (.mem (.abs w))
  | 0xCD => .f3 fun w => .cmp (.mem (.abs w))
  | 0xCE => .f3 fun w => .dec (.abs w)
  | 0xD0 => .f2 fun b => .bne b
  | 0xD1 => .f2 fun b => .cmp (.mem (.indy b))
  | 0xD5 => .f2 fun b => .cmp (.mem (.zpx b))
  | 0xD6 => .f2 fun b => .dec (.zpx b)
  | 0xD8 => .f1 .cld
  | 0xD9 => .f3 fun w => .cmp (.mem (.absy w))
  | 0xDD => .f3 fun w => .cmp (.mem (.absx w))
  | 0xDE => .f3 fun w => .dec (.absx w)
  | 0xE0 => .f2 fun b => .cpx (.imm b)
  | 0xE1 => .f2 fun b => .sbc (.mem (.indx b))
  | 0xE4 => .f2 fun b => .cpx (.mem (.zp b))
  | 0xE5 => .f2 fun b => .sbc (.mem (.zp b))
  | 0xE6 => .f2 fun b => .inc (.zp b)
  | 0xE8 => .f1 .inx
  | 0xE9 => .f2 fun b => .sbc (.imm b)
  | 0xEA => .f1 .nop
  | 0xEC => .f3 fun w => .cpx (.mem (.abs w))
  | 0xED => .f3 fun w => .sbc (.mem (.abs w))
  | 0xEE => .f3 fun w => .inc (.abs w)
  | 0xF0 => .f2 fun b => .beq b
  | 0xF1 => .f2 fun b => .sbc (.mem (.indy b))
  | 0xF5 => .f2 fun b => .sbc (.mem (.zpx b))
  | 0xF6 => .f2 fun b => .inc (.zpx b)
  | 0xF8 => .f1 .sed
  | 0xF9 => .f3 fun w => .sbc (.mem (.absy w))
  | 0xFD => .f3 fun w => .sbc (.mem (.absx w))
  | 0xFE => .f3 fun w => .inc (.absx w)
  | _ => .f1 (.unassigned op)

/-- The length of an instruction in bytes, which the opcode byte alone gives (30_encoding.md R110, R111). -/
def Format.length : Format → Nat
  | .f1 _ => 1
  | .f2 _ => 2
  | .f3 _ => 3

/-- Complete a format with the bytes after the opcode; a 16-bit operand has its low byte first (20_memory.md R75). A byte the
format does not use is ignored. -/
def Format.complete : Format → Byte → Byte → Instr
  | .f1 i, _, _ => i
  | .f2 mk, b, _ => mk b
  | .f3 mk, lo, hi => mk (word hi lo)

/-- Read one instruction from the front of a list of bytes, and give back the rest. -/
def decode : List Byte → Except DecodeError (Instr × List Byte)
  | [] => .error .noBytes
  | op :: rest =>
    match opcodeFormat op, rest with
    | .f1 i, _ => .ok (i, rest)
    | .f2 mk, b :: rest' => .ok (mk b, rest')
    | .f3 mk, lo :: hi :: rest' => .ok (mk (word hi lo), rest')
    | _, _ => .error .truncated

/-- Byte `k` of a number, byte 0 the least significant. -/
def byteOfNat (w k : Nat) : Byte := BitVec.ofNat 8 (w / 2 ^ (8 * k))

/-- The three bytes that stand for a table word: its bits above `nbits` are zero, and bytes past it are zero. -/
def tableWordBytes (nbits w : Nat) : List Byte :=
  let v := w % 2 ^ nbits
  [byteOfNat v 0, byteOfNat v 1, byteOfNat v 2]

/-- The instruction the decoder reads from the bits of a row of spec/opcode_table.json. -/
def decodeTableWord (nbits w : Nat) : Option Instr :=
  match decode (tableWordBytes nbits w) with
  | .ok (i, _) => some i
  | .error _ => none

/-! The encoder. -/

/-- The opcodes of an instruction with the modes imm, zp, zpx, abs, absx, absy, indx, indy, in that order. -/
def Src.fullOpcode (imm zp zpx abs absx absy indx indy : Byte) : Src → Option Byte
  | .imm _ => some imm
  | .mem (.zp _) => some zp
  | .mem (.zpx _) => some zpx
  | .mem (.zpy _) => none
  | .mem (.abs _) => some abs
  | .mem (.absx _) => some absx
  | .mem (.absy _) => some absy
  | .mem (.indx _) => some indx
  | .mem (.indy _) => some indy

/-- The opcodes of LDX: imm, zp, zpy, abs, absy (40 R152). -/
def Src.ldxOpcode : Src → Option Byte
  | .imm _ => some 0xA2
  | .mem (.zp _) => some 0xA6
  | .mem (.zpy _) => some 0xB6
  | .mem (.abs _) => some 0xAE
  | .mem (.absy _) => some 0xBE
  | _ => none

/-- The opcodes of LDY: imm, zp, zpx, abs, absx (40 R153). -/
def Src.ldyOpcode : Src → Option Byte
  | .imm _ => some 0xA0
  | .mem (.zp _) => some 0xA4
  | .mem (.zpx _) => some 0xB4
  | .mem (.abs _) => some 0xAC
  | .mem (.absx _) => some 0xBC
  | _ => none

/-- The opcodes of an instruction with the modes imm, zp, abs, in that order. -/
def Src.cpOpcode (imm zp abs : Byte) : Src → Option Byte
  | .imm _ => some imm
  | .mem (.zp _) => some zp
  | .mem (.abs _) => some abs
  | _ => none

/-- The opcodes of STA: zp, zpx, abs, absx, absy, indx, indy (40 R154). -/
def Addr.staOpcode : Addr → Option Byte
  | .zp _ => some 0x85
  | .zpx _ => some 0x95
  | .zpy _ => none
  | .abs _ => some 0x8D
  | .absx _ => some 0x9D
  | .absy _ => some 0x99
  | .indx _ => some 0x81
  | .indy _ => some 0x91

/-- The opcodes of STX: zp, zpy, abs (40 R155). -/
def Addr.stxOpcode : Addr → Option Byte
  | .zp _ => some 0x86
  | .zpy _ => some 0x96
  | .abs _ => some 0x8E
  | _ => none

/-- The opcodes of STY: zp, zpx, abs (40 R156). -/
def Addr.styOpcode : Addr → Option Byte
  | .zp _ => some 0x84
  | .zpx _ => some 0x94
  | .abs _ => some 0x8C
  | _ => none

/-- The opcodes of BIT: zp, abs (41 R213). -/
def Addr.bitOpcode : Addr → Option Byte
  | .zp _ => some 0x24
  | .abs _ => some 0x2C
  | _ => none

/-- The opcodes of an instruction with the modes zp, zpx, abs, absx, in that order. -/
def Addr.rmwOpcode (zp zpx abs absx : Byte) : Addr → Option Byte
  | .zp _ => some zp
  | .zpx _ => some zpx
  | .abs _ => some abs
  | .absx _ => some absx
  | _ => none

/-- The opcodes of a shift or rotate: acc, zp, zpx, abs, absx, in that order. -/
def Rmw.shiftOpcode (acc zp zpx abs absx : Byte) : Rmw → Option Byte
  | .acc => some acc
  | .mem m => m.rmwOpcode zp zpx abs absx

/-- The opcode byte of an instruction, from the "Encoding" line of its rule; none for an ill-formed one. -/
def Instr.opcode : Instr → Option Byte
  | .lda m => m.fullOpcode 0xA9 0xA5 0xB5 0xAD 0xBD 0xB9 0xA1 0xB1
  | .ldx m => m.ldxOpcode
  | .ldy m => m.ldyOpcode
  | .sta m => m.staOpcode
  | .stx m => m.stxOpcode
  | .sty m => m.styOpcode
  | .tax => some 0xAA
  | .tay => some 0xA8
  | .txa => some 0x8A
  | .tya => some 0x98
  | .tsx => some 0xBA
  | .txs => some 0x9A
  | .pha => some 0x48
  | .php => some 0x08
  | .pla => some 0x68
  | .plp => some 0x28
  | .adc m => m.fullOpcode 0x69 0x65 0x75 0x6D 0x7D 0x79 0x61 0x71
  | .sbc m => m.fullOpcode 0xE9 0xE5 0xF5 0xED 0xFD 0xF9 0xE1 0xF1
  | .and m => m.fullOpcode 0x29 0x25 0x35 0x2D 0x3D 0x39 0x21 0x31
  | .ora m => m.fullOpcode 0x09 0x05 0x15 0x0D 0x1D 0x19 0x01 0x11
  | .eor m => m.fullOpcode 0x49 0x45 0x55 0x4D 0x5D 0x59 0x41 0x51
  | .cmp m => m.fullOpcode 0xC9 0xC5 0xD5 0xCD 0xDD 0xD9 0xC1 0xD1
  | .cpx m => m.cpOpcode 0xE0 0xE4 0xEC
  | .cpy m => m.cpOpcode 0xC0 0xC4 0xCC
  | .bit m => m.bitOpcode
  | .inc m => m.rmwOpcode 0xE6 0xF6 0xEE 0xFE
  | .dec m => m.rmwOpcode 0xC6 0xD6 0xCE 0xDE
  | .inx => some 0xE8
  | .iny => some 0xC8
  | .dex => some 0xCA
  | .dey => some 0x88
  | .asl m => m.shiftOpcode 0x0A 0x06 0x16 0x0E 0x1E
  | .lsr m => m.shiftOpcode 0x4A 0x46 0x56 0x4E 0x5E
  | .rol m => m.shiftOpcode 0x2A 0x26 0x36 0x2E 0x3E
  | .ror m => m.shiftOpcode 0x6A 0x66 0x76 0x6E 0x7E
  | .jmp (.abs _) => some 0x4C
  | .jmp (.ind _) => some 0x6C
  | .jsr _ => some 0x20
  | .rts => some 0x60
  | .bcc _ => some 0x90
  | .bcs _ => some 0xB0
  | .beq _ => some 0xF0
  | .bmi _ => some 0x30
  | .bne _ => some 0xD0
  | .bpl _ => some 0x10
  | .bvc _ => some 0x50
  | .bvs _ => some 0x70
  | .brk => some 0x00
  | .rti => some 0x40
  | .clc => some 0x18
  | .sec => some 0x38
  | .cli => some 0x58
  | .sei => some 0x78
  | .cld => some 0xD8
  | .sed => some 0xF8
  | .clv => some 0xB8
  | .nop => some 0xEA
  | .unassigned op => if unassignedBytes.contains op.toNat then some op else none

/-- A 16-bit operand's bytes, the low byte first (30_encoding.md R111, 20_memory.md R75). -/
def wordBytes (w : Word) : List Byte := [loByte w, hiByte w]

/-- The operand bytes of a mode that gives an effective address. -/
def Addr.bytes : Addr → List Byte
  | .zp b | .zpx b | .zpy b | .indx b | .indy b => [b]
  | .abs w | .absx w | .absy w => wordBytes w

/-- The operand bytes of a read operand. -/
def Src.bytes : Src → List Byte
  | .imm b => [b]
  | .mem m => m.bytes

/-- The operand bytes of a shift's operand. -/
def Rmw.bytes : Rmw → List Byte
  | .acc => []
  | .mem m => m.bytes

/-- The bytes after the opcode (30_encoding.md R111). -/
def Instr.operandBytes : Instr → List Byte
  | .lda m | .ldx m | .ldy m => m.bytes
  | .adc m | .sbc m | .and m | .ora m | .eor m | .cmp m | .cpx m | .cpy m => m.bytes
  | .sta m | .stx m | .sty m | .bit m | .inc m | .dec m => m.bytes
  | .asl m | .lsr m | .rol m | .ror m => m.bytes
  | .jmp (.abs w) | .jmp (.ind w) | .jsr w => wordBytes w
  | .bcc b | .bcs b | .beq b | .bmi b | .bne b | .bpl b | .bvc b | .bvs b => [b]
  | .tax | .tay | .txa | .tya | .tsx | .txs | .pha | .php | .pla | .plp => []
  | .inx | .iny | .dex | .dey => []
  | .rts | .brk | .rti | .nop => []
  | .clc | .sec | .cli | .sei | .cld | .sed | .clv => []
  | .unassigned _ => []

/-- The bytes of an instruction, opcode first; none for an ill-formed one. -/
def encode (i : Instr) : List Byte :=
  match i.opcode with
  | some op => op :: i.operandBytes
  | none => []

end Sys2Proof
end

