-- ==== Sys2Proof/Machine/Timing.lean ====
section
/-! DEFINITION. Instruction timing: CYCLES with its default table, and the page-cross flag (70_reset_and_hazards.md R770 to R772). -/

namespace Sys2Proof.Machine

/-- The base counts of 70_reset_and_hazards.md R770 by opcode, one row for each high nibble; 0 for an unassigned byte. -/
def baseCycles : List Nat :=
  [7, 6, 0, 0, 0, 3, 5, 0, 3, 2, 2, 0, 0, 4, 6, 0] ++
  [2, 5, 0, 0, 0, 4, 6, 0, 2, 4, 0, 0, 0, 4, 7, 0] ++
  [6, 6, 0, 0, 3, 3, 5, 0, 4, 2, 2, 0, 4, 4, 6, 0] ++
  [2, 5, 0, 0, 0, 4, 6, 0, 2, 4, 0, 0, 0, 4, 7, 0] ++
  [6, 6, 0, 0, 0, 3, 5, 0, 3, 2, 2, 0, 3, 4, 6, 0] ++
  [2, 5, 0, 0, 0, 4, 6, 0, 2, 4, 0, 0, 0, 4, 7, 0] ++
  [6, 6, 0, 0, 0, 3, 5, 0, 4, 2, 2, 0, 5, 4, 6, 0] ++
  [2, 5, 0, 0, 0, 4, 6, 0, 2, 4, 0, 0, 0, 4, 7, 0] ++
  [0, 6, 0, 0, 3, 3, 3, 0, 2, 0, 2, 0, 4, 4, 4, 0] ++
  [2, 6, 0, 0, 4, 4, 4, 0, 2, 5, 2, 0, 0, 5, 0, 0] ++
  [2, 6, 2, 0, 3, 3, 3, 0, 2, 2, 2, 0, 4, 4, 4, 0] ++
  [2, 5, 0, 0, 4, 4, 4, 0, 2, 4, 2, 0, 4, 4, 4, 0] ++
  [2, 6, 0, 0, 3, 3, 5, 0, 2, 2, 2, 0, 4, 4, 6, 0] ++
  [2, 5, 0, 0, 0, 4, 6, 0, 2, 4, 0, 0, 0, 4, 7, 0] ++
  [2, 6, 0, 0, 3, 3, 5, 0, 2, 2, 2, 0, 4, 4, 6, 0] ++
  [2, 5, 0, 0, 0, 4, 6, 0, 2, 4, 0, 0, 0, 4, 7, 0]

/-- The opcodes R770 marks `*`: one more cycle when the effective address crosses a page. -/
def pageCrossOpcodes : List Nat :=
  [0x11, 0x19, 0x1D, 0x31, 0x39, 0x3D, 0x51, 0x59, 0x5D, 0x71, 0x79] ++
  [0x7D, 0xB1, 0xB9, 0xBC, 0xBD, 0xBE, 0xD1, 0xD9, 0xDD, 0xF1, 0xF9, 0xFD]

/-- The default row of CYCLES for an opcode. -/
def defaultCycleRow (op : Byte) : CycleRow where
  base := baseCycles.getD op.toNat 0
  pageCross := pageCrossOpcodes.contains op.toNat

/-- `CYCLES(op)` under the parameters (00_scope.md R12, 70_reset_and_hazards.md R770, R773). -/
def cycleRow (pr : Params) (op : Byte) : CycleRow :=
  (pr.cycleOverrides.lookup op.toNat).getD (defaultCycleRow op)

/-- `CYCLES` of an instruction, by its opcode; an ill-formed instruction, which no opcode decodes to, costs nothing (log 13). -/
def instrCycles (pr : Params) (i : Instr) : CycleRow :=
  match i.opcode with
  | some op => cycleRow pr op
  | none => { base := 0, pageCross := false }

/-- Add cycles to the step's cost (00_scope.md R18). -/
def State.addCost (s : State) (n : Nat) : State := { s with cost := s.cost + n }

/-- Charge an instruction's base count (70_reset_and_hazards.md R770). The step does this before `exec` (log 6). -/
def State.chargeBase (s : State) (i : Instr) : State := { s with cost := (instrCycles s.params i).base }

/-- The page-cross penalty of an instruction whose effective address left its base's page or did not (70_reset_and_hazards.md
R770, R771). -/
def State.chargeCross (s : State) (i : Instr) (cross : Bool) : State :=
  s.addCost (if cross && (instrCycles s.params i).pageCross then 1 else 0)

end Sys2Proof.Machine
end

