-- ==== Sys2Proof/Machine/Ops.lean ====
section
/-! DEFINITION. The named operations over registers, memory and the stack, and taking and leaving an interrupt (10_state.md R41,
R43; 60_exceptions.md R410 to R413; 42_control.md R280, R281). -/

namespace Sys2Proof.Machine

/-- What an instruction or a step answers. -/
abbrev Result := Host.Outcome State Fault Refusal

/-! Registers (00_scope.md R15). -/

/-- `A <- d`. -/
def State.setA (s : State) (d : Byte) : State := { s with a := d }

/-- `X <- d`. -/
def State.setX (s : State) (d : Byte) : State := { s with x := d }

/-- `Y <- d`. -/
def State.setY (s : State) (d : Byte) : State := { s with y := d }

/-- `SP <- d`. -/
def State.setSp (s : State) (d : Byte) : State := { s with sp := d }

/-- `P <- d`. -/
def State.setP (s : State) (d : Byte) : State := { s with p := d }

/-- `PC <- target`. -/
def State.setPc (s : State) (w : Word) : State := { s with pc := w }

/-- `PC_next = u16(PC + length)` (10_state.md R43, R44). -/
def State.pcNext (s : State) (length : Nat) : Word := s.pc + BitVec.ofNat 16 length

/-- `PC <- PC_next` for an instruction of `length` bytes. -/
def State.advance (s : State) (length : Nat) : State := s.setPc (s.pcNext length)

/-! Memory and stack. -/

/-- Two byte reads, the low byte's address first (00_scope.md R16, 20_memory.md R76). -/
def State.readPair (s : State) (lo hi : Word) : Word × State :=
  let r := s.cpuRead lo
  let q := r.2.cpuRead hi
  (word q.1 r.1, q.2)

/-- `Read16(a)` (00_scope.md R16). -/
def State.read16 (s : State) (a : Word) : Word × State := s.readPair a (a + 1)

/-- The address of the stack byte `SP` designates: `0x0100 + SP` (10_state.md R33). -/
def stackAddr (sp : Byte) : Word := word 0x01 sp

/-- The SP a push writes at: SP - 1 under `doc`, which decrements first; SP under `mos6502`, which decrements after
(10_state.md R41). -/
def State.pushSp (s : State) : Byte :=
  match s.params.stackOrder with
  | .doc => s.sp - 1
  | .mos6502 => s.sp

/-- The SP a pull reads at: SP under `doc`, SP + 1 under `mos6502` (10_state.md R41). -/
def State.pullSp (s : State) : Byte :=
  match s.params.stackOrder with
  | .doc => s.sp
  | .mos6502 => s.sp + 1

/-- `Push(d)` under STACK_ORDER (10_state.md R41). -/
def State.push (s : State) (d : Byte) : State := (s.cpuWrite (stackAddr s.pushSp) d).setSp (s.sp - 1)

/-- `Pull()` under STACK_ORDER (10_state.md R41). -/
def State.pull (s : State) : Byte × State :=
  let r := s.cpuRead (stackAddr s.pullSp)
  (r.1, r.2.setSp (s.sp + 1))

/-- Push a 16-bit value, the high byte first (42_control.md R261, R280; 60_exceptions.md R410). -/
def State.push16 (s : State) (w : Word) : State := (s.push (hiByte w)).push (loByte w)

/-- Pull a 16-bit value, the low byte first (42_control.md R262, R281). -/
def State.pull16 (s : State) : Word × State :=
  let r := s.pull
  let q := r.2.pull
  (word q.1 r.1, q.2)

/-! Taking an interrupt, and returning. -/

/-- What BRK, NMI and IRQ share: push the return address and a status byte, set I, load PC from a vector
(60_exceptions.md R410, 42_control.md R280). -/
def State.takeInterrupt (s : State) (ret : Word) (status : Byte) (vec : Word) : State :=
  let r := (((s.push16 ret).push status).setI true).read16 vec
  r.2.setPc r.1

/-- RTI's effect: pull P with bit 5 forced to 1, then PC (42_control.md R281). -/
def State.returnFromInterrupt (s : State) : State :=
  let r := s.pull
  let q := (r.2.setP (statusPulled r.1)).pull16
  q.2.setPc q.1

/-- `EnterInterrupt(IRQ)` (60_exceptions.md R410, R413). -/
def State.enterIrq (s : State) : State :=
  { s.takeInterrupt s.pc (statusInt s.p) 0xFFFE with cost := 7 }

/-- Taking the NMI: the latch is cleared, then `EnterInterrupt(NMI)` (60_exceptions.md R410, R412). -/
def State.enterNmi (s : State) : State :=
  { ({ s with nmiPending := false } : State).takeInterrupt s.pc (statusInt s.p) 0xFFFA with cost := 7 }

/-- `irq_line` (10_state.md R47). -/
def State.irqLine (s : State) : Bool := s.apu.irqLine

end Sys2Proof.Machine
end

