-- ==== Sys2Proof/Machine/PpuDot.lean ====
section
/-! DEFINITION. The PPU's dot state machine: background pipeline, sprites, compositor, timing (62_ppu.md R560 to R599). -/

namespace Sys2Proof.Machine

/-! Background (62_ppu.md R580 to R586). -/

/-- `ShiftBg()` (62_ppu.md R580). -/
def Ppu.shiftBg (p : Ppu) : Ppu :=
  { p with bgLo := p.bgLo <<< 1, bgHi := p.bgHi <<< 1, atLo := p.atLo <<< 1, atHi := p.atHi <<< 1 }

/-- A shift register with its lower 8 bits replaced. -/
def reload16 (r : BitVec 16) (d : Byte) : BitVec 16 := r.extractLsb' 8 8 ++ d

/-- `ReloadBg()` (62_ppu.md R580). -/
def Ppu.reloadBg (p : Ppu) : Ppu :=
  { p with
    bgLo := reload16 p.bgLo p.ptLoLatch
    bgHi := reload16 p.bgHi p.ptHiLatch
    atLo := reload16 p.atLo (if p.atLatch.getLsbD 0 then 0xFF else 0x00)
    atHi := reload16 p.atHi (if p.atLatch.getLsbD 1 then 0xFF else 0x00) }

/-- The address of the nametable byte: `0x2000 | v[11:0]` (62_ppu.md R581). -/
def ntAddr (v : BitVec 15) : PpuAddr := (2 : BitVec 2) ++ v.setWidth 12

/-- The address of the attribute byte: `0x23C0 | v[11:10] << 10 | v[9:7] << 3 | v[4:2]` (62_ppu.md R582). -/
def atAddr (v : BitVec 15) : PpuAddr :=
  (2 : BitVec 2) ++ v.extractLsb' 10 2 ++ (0xF : BitVec 4) ++ v.extractLsb' 7 3 ++ v.extractLsb' 2 3

/-- `AttrBits()` (62_ppu.md R582). -/
def Ppu.attrBits (p : Ppu) (c : Cart) (pr : Params) : BitVec 2 :=
  let a := p.busRead c pr (atAddr p.v)
  let a := if p.v.getLsbD 6 then a >>> 4 else a
  let a := if p.v.getLsbD 1 then a >>> 2 else a
  a.setWidth 2

/-- The address of the low pattern byte: `bg_table + 16 * nt_latch + v[14:12]` (62_ppu.md R581). -/
def Ppu.bgPatternAddr (p : Ppu) : PpuAddr :=
  p.bgTable + (p.ntLatch.setWidth 14 <<< 4) + (vFineY p.v).setWidth 14

/-- The work of one of the eight dots of a tile fetch (62_ppu.md R581). -/
def Ppu.fetchDot (p : Ppu) (c : Cart) (pr : Params) : Ppu :=
  match (p.dot - 1) % 8 with
  | 0 => p.reloadBg
  | 1 => { p with ntLatch := p.busRead c pr (ntAddr p.v) }
  | 3 => { p with atLatch := p.attrBits c pr }
  | 5 => { p with ptLoLatch := p.busRead c pr p.bgPatternAddr }
  | 7 => { p with ptHiLatch := p.busRead c pr (p.bgPatternAddr + 8), v := incX p.v }
  | _ => p

/-- The background pixel at screen x: `bg_p`, and `bg_pal` (62_ppu.md R586). -/
def Ppu.bgPixel (p : Ppu) (x : Nat) : BitVec 2 × BitVec 2 :=
  if p.mask.getLsbD 3 = false ∨ (x < 8 ∧ p.mask.getLsbD 1 = false) then (0, 0)
  else
    let s := 15 - p.fineX.toNat
    (BitVec.ofBool (p.bgHi.getLsbD s) ++ BitVec.ofBool (p.bgLo.getLsbD s),
     BitVec.ofBool (p.atHi.getLsbD s) ++ BitVec.ofBool (p.atLo.getLsbD s))

/-! Sprites (62_ppu.md R590 to R595). -/

/-- Whether OAM entry `n` covers the line after `line`: `0 <= line - OAM[4n] < h` (62_ppu.md R591). -/
def Ppu.spriteInRange (p : Ppu) (line n : Nat) : Bool :=
  let y := (Memory.read p.oam (4 * n)).toNat
  decide (y ≤ line) && decide (line - y < p.spriteHeight)

/-- The OAM entries that cover the line after `line`, in index order (62_ppu.md R591). -/
def Ppu.spriteMatches (p : Ppu) (line : Nat) : List Nat :=
  (List.range 64).filter (p.spriteInRange line)

/-- The four bytes of OAM entry `n`. -/
def Ppu.oamEntry (p : Ppu) (n : Nat) : List Byte :=
  (List.range 4).map fun k => Memory.read p.oam (4 * n + k)

/-- `reverse8`: the bits of a byte in the opposite order (62_ppu.md R593). -/
def reverse8 (b : Byte) : Byte := b.reverse

/-- The pattern address of a sprite's row (62_ppu.md R593). -/
def Ppu.spriteAddr (p : Ppu) (tile attr : Byte) (row : Nat) : PpuAddr :=
  let h := p.spriteHeight
  let row := if attr.getLsbD 7 then h - 1 - row else row
  if h = 8 then p.sprTable + (tile.setWidth 14 <<< 4) + BitVec.ofNat 14 row
  else
    let table : PpuAddr := if tile.getLsbD 0 then 0x1000 else 0
    let top := tile &&& 0xFE
    let top := if row ≥ 8 then top + 1 else top
    table + (top.setWidth 14 <<< 4) + BitVec.ofNat 14 (row % 8)

/-- The sprite unit loaded from secondary OAM entry `i` for the line after `line`; `zero` says whether it is OAM entry 0
(62_ppu.md R593). -/
def Ppu.loadSprite (p : Ppu) (c : Cart) (pr : Params) (line i : Nat) (zero : Bool) : SpriteUnit :=
  let y := Memory.read p.secOam (4 * i)
  let tile := Memory.read p.secOam (4 * i + 1)
  let attr := Memory.read p.secOam (4 * i + 2)
  let addr := p.spriteAddr tile attr (line - y.toNat)
  let lo := p.busRead c pr addr
  let hi := p.busRead c pr (addr + 8)
  let flip := attr.getLsbD 6
  { lo := if flip then reverse8 lo else lo
    hi := if flip then reverse8 hi else hi
    attr := attr
    x := Memory.read p.secOam (4 * i + 3)
    zero := zero }

/-- Sprite evaluation and fetch for the next line, at dot 257 of a visible line (62_ppu.md R591, R592, R593): the first 8
matches go to secondary OAM and then to the sprite units, and a 9th match sets the overflow flag. -/
def Ppu.evalSprites (p : Ppu) (c : Cart) (pr : Params) : Ppu :=
  let found := p.spriteMatches p.scanline
  let sel := found.take 8
  let bytes := sel.flatMap p.oamEntry
  let p := { p with
    secOam := Memory.ofList 0 (bytes ++ List.replicate (32 - bytes.length) 0xFF)
    spriteOverflow := p.spriteOverflow || decide (found.length > 8)
    sprCount := sel.length }
  let units := sel.mapIdx fun i n => p.loadSprite c pr p.scanline i (decide (n = 0))
  { p with sprites := units ++ p.sprites.drop units.length }

/-- `p_i`, the pixel of a sprite unit at screen x (62_ppu.md R594). -/
def Ppu.spritePixel (p : Ppu) (u : SpriteUnit) (x : Nat) : BitVec 2 :=
  if p.mask.getLsbD 4 = false ∨ (x < 8 ∧ p.mask.getLsbD 2 = false) then 0
  else if u.x.toNat ≤ x ∧ x - u.x.toNat ≤ 7 then
    let c := 7 - (x - u.x.toNat)
    BitVec.ofBool (u.hi.getLsbD c) ++ BitVec.ofBool (u.lo.getLsbD c)
  else 0

/-! Compositor (62_ppu.md R596 to R599). -/

/-- The units loaded for the line whose pixel at x is opaque, in index order, each with its pixel. -/
def Ppu.opaqueUnits (p : Ppu) (x : Nat) : List (SpriteUnit × BitVec 2) :=
  ((p.sprites.take p.sprCount).map fun u => (u, p.spritePixel u x)).filter fun up => up.2 != 0

/-- Whether a sprite is in the "behind" layer: attribute bit 5 (62_ppu.md R590). -/
def SpriteUnit.behind (u : SpriteUnit) : Bool := u.attr.getLsbD 5

/-- The palette entry of a sprite pixel: `0x10 + 4 * attr[1:0] + p_i` (62_ppu.md R596). -/
def spriteEntry (up : SpriteUnit × BitVec 2) : BitVec 5 := (1 : BitVec 1) ++ up.1.attr.setWidth 2 ++ up.2

/-- The palette entry `addr - 0x3F00` that OutputPixel selects (62_ppu.md R596). -/
def Ppu.pixelEntry (p : Ppu) (pr : Params) (x : Nat) : BitVec 5 :=
  let bg := p.bgPixel x
  let bgEntry : BitVec 5 := (0 : BitVec 1) ++ bg.2 ++ bg.1
  let units := p.opaqueUnits x
  match pr.spritePriority with
  | .layered =>
    match units.find? (fun up => !up.1.behind) with
    | some up => spriteEntry up
    | none =>
      if bg.1 ≠ 0 then bgEntry
      else match units.find? (fun up => up.1.behind) with
        | some up => spriteEntry up
        | none => 0
  | .hardware =>
    match units.head? with
    | some up =>
      if up.1.behind = false ∨ bg.1 = 0 then spriteEntry up
      else bgEntry
    | none => if bg.1 ≠ 0 then bgEntry else 0

/-- Write pixel x of the current line: the emphasis bits and the colour of a palette entry (62_ppu.md R598). -/
def Ppu.putPixel (p : Ppu) (pr : Params) (x : Nat) (entry : BitVec 5) : Ppu :=
  let px : Pixel := p.mask.extractLsb' 5 3 ++ p.paletteRead pr entry
  { p with frame := Memory.write p.frame (256 * p.scanline + x) px }

/-- Whether sprite 0 hits at x (62_ppu.md R597). DESIGN CHOICE (log 17): "some unit `i`" of R597 is a unit loaded for the line,
`i < spr_count`, as in R596; R597 does not repeat that bound. -/
def Ppu.spriteZeroAt (p : Ppu) (x : Nat) : Bool :=
  (p.opaqueUnits x).any (fun up => up.1.zero) && (p.bgPixel x).1 != 0 && x != 255

/-- `OutputPixel(x)` (62_ppu.md R596, R597; R599 with rendering off). -/
def Ppu.outputPixel (p : Ppu) (pr : Params) (x : Nat) : Ppu :=
  if p.rendering then
    let q := p.putPixel pr x (p.pixelEntry pr x)
    { q with sprite0Hit := p.sprite0Hit || p.spriteZeroAt x }
  else p.putPixel pr x 0

/-! One dot (62_ppu.md R560, R581). -/

/-- `ShiftBg()` at its dots (62_ppu.md R581). -/
def Ppu.shiftStage (p : Ppu) : Ppu :=
  if (2 ≤ p.dot ∧ p.dot ≤ 257) ∨ (322 ≤ p.dot ∧ p.dot ≤ 337) then p.shiftBg else p

/-- `OutputPixel(dot - 1)` at dots 1 to 256 of a visible line (62_ppu.md R581, R599). -/
def Ppu.pixelStage (p : Ppu) (pr : Params) : Ppu :=
  if p.visible && decide (1 ≤ p.dot) && decide (p.dot ≤ 256) then p.outputPixel pr (p.dot - 1) else p

/-- The tile fetches at their dots (62_ppu.md R581). -/
def Ppu.fetchStage (p : Ppu) (c : Cart) (pr : Params) : Ppu :=
  if (1 ≤ p.dot ∧ p.dot ≤ 257) ∨ (321 ≤ p.dot ∧ p.dot ≤ 337) then p.fetchDot c pr else p

/-- `IncY()` at dot 256 and the scroll copies (62_ppu.md R581, R584, R585). -/
def Ppu.scrollStage (p : Ppu) : Ppu :=
  if p.dot = 256 then { p with v := incY p.v }
  else if p.dot = 257 then { p with v := copyHoriz p.t p.v }
  else if p.scanline = 261 ∧ 280 ≤ p.dot ∧ p.dot ≤ 304 then { p with v := copyVert p.t p.v }
  else p

/-- The background and pixel work of a dot (62_ppu.md R581). -/
def Ppu.backgroundWork (p : Ppu) (c : Cart) (pr : Params) : Ppu :=
  if p.renderLine && p.rendering then
    (((p.shiftStage).pixelStage pr).fetchStage c pr).scrollStage
  else if p.rendering then p
  else p.pixelStage pr

/-- The sprite work of dot 257 (62_ppu.md R591, R593, R595). The pre-render line empties the sprite units whether or not
rendering is on (DEDUCED, log 10). -/
def Ppu.spriteWork (p : Ppu) (c : Cart) (pr : Params) : Ppu :=
  if p.dot = 257 then
    let p := if p.scanline = 261 then { p with sprCount := 0 }
      else if p.visible && p.rendering then p.evalSprites c pr
      else p
    if p.renderLine && p.rendering then { p with oamaddr := 0 } else p
  else p

/-- The flags of the vertical blank and of the pre-render line (62_ppu.md R567, R568). -/
def Ppu.flagWork (p : Ppu) : Ppu :=
  if p.scanline = 241 ∧ p.dot = 1 then { p with vblank := true }
  else if p.scanline = 261 ∧ p.dot = 1 then
    { p with vblank := false, sprite0Hit := false, spriteOverflow := false }
  else p

/-- `DotWork(scanline, dot)` (62_ppu.md R560). -/
def Ppu.dotWork (p : Ppu) (c : Cart) (pr : Params) : Ppu :=
  ((p.flagWork).backgroundWork c pr).spriteWork c pr

/-- Move to the next dot: the odd-frame skip, the end of a line and of a frame (62_ppu.md R560, R565). -/
def Ppu.nextDot (p : Ppu) (pr : Params) : Ppu :=
  if p.scanline = 261 ∧ p.dot = 339 ∧ p.oddFrame = true ∧ p.rendering = true ∧ pr.oddFrameSkip = true then
    { p with dot := 0, scanline := 0, oddFrame := false }
  else if p.dot + 1 = 341 then
    if p.scanline + 1 = 262 then { p with dot := 0, scanline := 0, oddFrame := !p.oddFrame }
    else { p with dot := 0, scanline := p.scanline + 1 }
  else { p with dot := p.dot + 1 }

/-- `PpuTick()`: one dot, then the NMI output is evaluated again (62_ppu.md R560, R567). -/
def State.ppuTick (s : State) : State :=
  ({ s with ppu := (s.ppu.dotWork s.cart s.params).nextDot s.params } : State).nmiEval

end Sys2Proof.Machine
end

