-- ==== Sys2Proof/Machine/CatchUp.lean ====
section
/-! DEFINITION. The device catch-up: 3 PPU dots and 1 APU tick for each cycle of the step's cost (60_exceptions.md R400, part 3;
63_apu.md R621, R672, R677). -/

namespace Sys2Proof.Machine

/-- `DmcReaderCheck()`: when the buffer is empty and bytes remain, one CPU-bus read, which adds DMC_STALL to the step's cost
(63_apu.md R672, R677). -/
def State.dmcReader (s : State) : State :=
  if s.apu.dmc.wantsByte then
    let r := s.cpuRead s.apu.dmc.curAddr
    ({ r.2 with apu := { r.2.apu with dmc := r.2.apu.dmc.takeByte r.1 } } : State).addCost s.params.dmcStall
  else s

/-- `ApuTick()` (63_apu.md R621). -/
def State.apuTick (s : State) : State :=
  let s' := ({ s with apu := s.apu.tickUnits s.params } : State).dmcReader
  { s' with apu := s'.apu.tickEnd s'.params }

/-- The devices' work in one CPU cycle: 3 dots, then 1 APU tick (60_exceptions.md R400). -/
def State.deviceCycle (s : State) : State := s.ppuTick.ppuTick.ppuTick.apuTick

/-- `while k < cost`: the loop of the catch-up, for at most `fuel` cycles; none when `k < cost` still holds after them
(log 7). -/
def State.catchUpLoop : (fuel : Nat) → (k : Nat) → State → Option State
  | 0, k, s => if k < s.cost then none else some s
  | fuel + 1, k, s => if k < s.cost then State.catchUpLoop fuel (k + 1) s.deviceCycle else some s

/-- A bound on the loop's cycles that no loop of 60_exceptions.md R400 that ends can exceed, whatever DMC_STALL is: a sample that
does not loop has at most 4095 bytes, and a looping one is read at most once in `8 * RATE[rate_idx]`, at most 3424, cycles
(63_apu.md R627, R671, R672; log 7). -/
def State.catchUpFuel (s : State) : Nat := 4096 * (s.cost + 2 * s.params.dmcStall)

/-- The catch-up, and `cycles <- cycles + cost` (60_exceptions.md R400). It stops only where the loop of R400 never ends
(log 7). -/
def State.catchUp (s : State) : Result :=
  match State.catchUpLoop s.catchUpFuel 0 s with
  | none => .fault .catchUpDiverged
  | some s' => .next { s' with cycles := s'.cycles + s'.cost }

/-- What follows the CPU part of a step: the catch-up, after a next state only (60_exceptions.md R400, R425). -/
def thenCatchUp : Result → Result
  | .next s => s.catchUp
  | .fault f => .fault f
  | .refused r => .refused r

end Sys2Proof.Machine
end

