-- ==== Sys2Proof/Machine/Operands.lean ====
section
/-! DEFINITION. The effective address and the operand of every addressing mode (30_encoding.md R113 to R127). -/

namespace Sys2Proof.Machine

/-- An index added to a 16-bit base, modulo 65536, and whether the sum left the base's page (30_encoding.md R122, R123). -/
def indexed (base : Word) (idx : Byte) : Word × Bool :=
  let ea := base + idx.setWidth 16
  (ea, hiByte ea != hiByte base)

/-- A 16-bit pointer in the zero page: both bytes stay in page 0 (30_encoding.md R126, R127). -/
def State.zpPointer (s : State) (b : Byte) : Word × State :=
  s.readPair (b.setWidth 16) ((b + 1).setWidth 16)

/-- The effective address of a mode, whether it crossed a page, and the machine after the mode's pointer reads
(30_encoding.md R118 to R123, R126, R127). -/
def State.resolve (s : State) : Addr → Word × Bool × State
  | .zp b => (b.setWidth 16, false, s)
  | .zpx b => ((b + s.x).setWidth 16, false, s)
  | .zpy b => ((b + s.y).setWidth 16, false, s)
  | .abs w => (w, false, s)
  | .absx w => ((indexed w s.x).1, (indexed w s.x).2, s)
  | .absy w => ((indexed w s.y).1, (indexed w s.y).2, s)
  | .indx b =>
    let r := s.zpPointer (b + s.x)
    (r.1, false, r.2)
  | .indy b =>
    let r := s.zpPointer b
    ((indexed r.1 s.y).1, (indexed r.1 s.y).2, r.2)

/-- The operand value `M` of a reading instruction, whether its address crossed a page, and the machine after the reads
(30_encoding.md R114, R117). -/
def State.operand (s : State) : Src → Byte × Bool × State
  | .imm b => (b, false, s)
  | .mem m =>
    let r := s.resolve m
    let q := r.2.2.cpuRead r.1
    (q.1, r.2.1, q.2)

/-- The target of JMP; the indirect form reads both bytes in the pointer's page (30_encoding.md R121, R125). -/
def State.jumpTarget (s : State) : JumpTarget → Word × State
  | .abs w => (w, s)
  | .ind w => s.readPair w (word (hiByte w) (loByte w + 1))

/-- The target of a branch: the offset is relative to the next instruction (30_encoding.md R124). -/
def State.branchTarget (s : State) (b : Byte) : Word := s.pcNext 2 + b.signExtend 16

/-! The shapes of instructions. -/

/-- An instruction that reads an operand and then changes registers: the reads, the effect, the page-cross penalty, PC. -/
def State.reading (s : State) (i : Instr) (m : Src) (f : Byte → State → State) : State :=
  let r := s.operand m
  ((f r.1 r.2.2).chargeCross i r.2.1).advance (1 + m.size)

/-- An instruction that stores a byte at its effective address, which it does not read first (30_encoding.md R114). -/
def State.storing (s : State) (i : Instr) (m : Addr) (d : Byte) : State :=
  let r := s.resolve m
  ((r.2.2.cpuWrite r.1 d).chargeCross i r.2.1).advance (1 + m.size)

/-- A read-modify-write instruction on memory: one read, one write of the new value, then the flags, which `f` computes from
the byte read (41_arith_logic.md R240). -/
def State.modifying (s : State) (i : Instr) (m : Addr) (f : Byte → Bool → Byte) (g : Byte → Byte → State → State) : State :=
  let r := s.resolve m
  let q := r.2.2.cpuRead r.1
  let d := f q.1 q.2.flagC
  ((g q.1 d (q.2.cpuWrite r.1 d)).chargeCross i r.2.1).advance (1 + m.size)

/-- A shift or rotate of the accumulator (30_encoding.md R116). -/
def State.shiftingA (s : State) (f : Byte → Bool → Byte) (g : Byte → Byte → State → State) : State :=
  let d := f s.a s.flagC
  (g s.a d (s.setA d)).advance 1

/-- A shift or rotate (41_arith_logic.md R230 to R233). -/
def State.shifting (s : State) (i : Instr) (m : Rmw) (f : Byte → Bool → Byte) (g : Byte → Byte → State → State) : State :=
  match m with
  | .acc => s.shiftingA f g
  | .mem m => s.modifying i m f g

/-- A conditional branch: 1 more cycle when taken, and 1 more when the target is on another page than the next instruction
(42_control.md R265, 70_reset_and_hazards.md R772). -/
def State.branching (s : State) (b : Byte) (taken : Bool) : State :=
  if taken then
    (s.addCost (if hiByte (s.branchTarget b) = hiByte (s.pcNext 2) then 1 else 2)).setPc (s.branchTarget b)
  else s.advance 2

end Sys2Proof.Machine
end

