-- ==== Sys2Proof/Machine/Arith.lean ====
section
/-! DEFINITION. Arithmetic, logic, compare, increment and shift instructions (41_arith_logic.md R205 to R240). -/

namespace Sys2Proof.Machine

/-! The effects, over the byte read. -/

/-- ADC's effect on the machine (41_arith_logic.md R205). -/
def State.addWithCarry (s : State) (m : Byte) : State :=
  let pre := preAdd s.a m s.flagC
  let r := wrap pre
  ((((s.setV (overflowAdd s.a m r)).setC (carryOf pre)).setA r).setZN r)

/-- SBC's effect on the machine (41_arith_logic.md R206). -/
def State.subWithCarry (s : State) (m : Byte) : State :=
  let pre := preSub s.a m s.flagC
  let r := wrap pre
  ((((s.setV (overflowSub s.a m r)).setC (carryOf pre)).setA r).setZN r)

/-- The effect of a comparison of `r` with `m` (41_arith_logic.md R210 to R212). -/
def State.compare (s : State) (r m : Byte) : State :=
  (s.setC (carryOf (preCmp r m))).setZN (wrap (preCmp r m))

/-- BIT's effect: Z from `A & M`, N and V from bits 7 and 6 of M (41_arith_logic.md R213). -/
def State.testBits (s : State) (m : Byte) : State :=
  ((s.setZ (s.a &&& m == 0)).setN (m.getLsbD 7)).setV (m.getLsbD 6)

/-- A result in A with its Z and N (41_arith_logic.md R207 to R209). -/
def State.resultA (s : State) (r : Byte) : State := (s.setA r).setZN r

/-- The flags of a shift or rotate: the bit shifted out in C, Z and N of the result (41_arith_logic.md R230 to R233). -/
def State.shiftFlags (s : State) (c : Bool) (r : Byte) : State := (s.setC c).setZN r

/-- ADC: add with carry (41_arith_logic.md R205). -/
def execAdc (m : Src) (s : State) : Result :=
  .next (s.reading (.adc m) m fun d s => s.addWithCarry d)

/-- SBC: subtract with borrow (41_arith_logic.md R206). -/
def execSbc (m : Src) (s : State) : Result :=
  .next (s.reading (.sbc m) m fun d s => s.subWithCarry d)

/-- AND: `A <- A & M` (41_arith_logic.md R207). -/
def execAnd (m : Src) (s : State) : Result :=
  .next (s.reading (.and m) m fun d s => s.resultA (s.a &&& d))

/-- ORA: `A <- A | M` (41_arith_logic.md R208). -/
def execOra (m : Src) (s : State) : Result :=
  .next (s.reading (.ora m) m fun d s => s.resultA (s.a ||| d))

/-- EOR: `A <- A ^ M` (41_arith_logic.md R209). -/
def execEor (m : Src) (s : State) : Result :=
  .next (s.reading (.eor m) m fun d s => s.resultA (s.a ^^^ d))

/-- CMP: compare with A (41_arith_logic.md R210). -/
def execCmp (m : Src) (s : State) : Result :=
  .next (s.reading (.cmp m) m fun d s => s.compare s.a d)

/-- CPX: compare with X (41_arith_logic.md R211). -/
def execCpx (m : Src) (s : State) : Result :=
  .next (s.reading (.cpx m) m fun d s => s.compare s.x d)

/-- CPY: compare with Y (41_arith_logic.md R212). -/
def execCpy (m : Src) (s : State) : Result :=
  .next (s.reading (.cpy m) m fun d s => s.compare s.y d)

/-- BIT: test bits of a byte of memory (41_arith_logic.md R213). -/
def execBit (m : Addr) (s : State) : Result :=
  .next (s.reading (.bit m) (.mem m) fun d s => s.testBits d)

/-- INC: `M + 1` back to memory (41_arith_logic.md R220). -/
def execInc (m : Addr) (s : State) : Result :=
  .next (s.modifying (.inc m) m (fun d _ => d + 1) fun _ r s => s.setZN r)

/-- DEC: `M - 1` back to memory (41_arith_logic.md R221). -/
def execDec (m : Addr) (s : State) : Result :=
  .next (s.modifying (.dec m) m (fun d _ => d - 1) fun _ r s => s.setZN r)

/-- INX: `X <- u8(X + 1); SetZN(X)` (41_arith_logic.md R222). -/
def execInx (s : State) : Result :=
  .next (((s.setX (s.x + 1)).setZN (s.x + 1)).advance 1)

/-- INY: `Y <- u8(Y + 1); SetZN(Y)` (41_arith_logic.md R223). -/
def execIny (s : State) : Result :=
  .next (((s.setY (s.y + 1)).setZN (s.y + 1)).advance 1)

/-- DEX: `X <- u8(X - 1); SetZN(X)` (41_arith_logic.md R224). -/
def execDex (s : State) : Result :=
  .next (((s.setX (s.x - 1)).setZN (s.x - 1)).advance 1)

/-- DEY: `Y <- u8(Y - 1); SetZN(Y)` (41_arith_logic.md R225). -/
def execDey (s : State) : Result :=
  .next (((s.setY (s.y - 1)).setZN (s.y - 1)).advance 1)

/-- ASL: `2*M` (41_arith_logic.md R230). -/
def execAsl (m : Rmw) (s : State) : Result :=
  .next (s.shifting (.asl m) m (fun d _ => wrap (preAsl d)) fun d r t => t.shiftFlags (carryOf (preAsl d)) r)

/-- LSR: `M >> 1` (41_arith_logic.md R231). -/
def execLsr (m : Rmw) (s : State) : Result :=
  .next (s.shifting (.lsr m) m (fun d _ => lsrByte d) fun d r t => t.shiftFlags (d.getLsbD 0) r)

/-- ROL: `2*M + P.C` (41_arith_logic.md R232). -/
def execRol (m : Rmw) (s : State) : Result :=
  .next (s.shifting (.rol m) m (fun d c => wrap (preRol d c)) fun d r t => t.shiftFlags (carryOf (preRol d s.flagC)) r)

/-- ROR: `(P.C << 7) | (M >> 1)` (41_arith_logic.md R233). -/
def execRor (m : Rmw) (s : State) : Result :=
  .next (s.shifting (.ror m) m (fun d c => rorByte d c) fun d r t => t.shiftFlags (d.getLsbD 0) r)

end Sys2Proof.Machine
end

