-- ==== Sys2Proof/Machine/Control.lean ====
section
/-! DEFINITION. Control transfer, software interrupt, flag and no-op instructions (42_control.md R260 to R300), and the unassigned bytes (30_encoding.md R131). -/

namespace Sys2Proof.Machine

/-- JMP: `PC <- ea` (42_control.md R260). -/
def execJmp (t : JumpTarget) (s : State) : Result :=
  .next ((s.jumpTarget t).2.setPc (s.jumpTarget t).1)

/-- JSR: push the address of its last byte, then `PC <- ea` (42_control.md R261). -/
def execJsr (w : Word) (s : State) : Result :=
  .next ((s.push16 (s.pcNext 2)).setPc w)

/-- RTS: pull the address and add 1 (42_control.md R262). -/
def execRts (s : State) : Result :=
  .next (s.pull16.2.setPc (s.pull16.1 + 1))

/-- BCC: branch if `P.C = 0` (42_control.md R266). -/
def execBcc (b : Byte) (s : State) : Result :=
  .next (s.branching b (!s.flagC))

/-- BCS: branch if `P.C = 1` (42_control.md R267). -/
def execBcs (b : Byte) (s : State) : Result :=
  .next (s.branching b s.flagC)

/-- BEQ: branch if `P.Z = 1` (42_control.md R268). -/
def execBeq (b : Byte) (s : State) : Result :=
  .next (s.branching b s.flagZ)

/-- BMI: branch if `P.N = 1` (42_control.md R269). -/
def execBmi (b : Byte) (s : State) : Result :=
  .next (s.branching b s.flagN)

/-- BNE: branch if `P.Z = 0` (42_control.md R270). -/
def execBne (b : Byte) (s : State) : Result :=
  .next (s.branching b (!s.flagZ))

/-- BPL: branch if `P.N = 0` (42_control.md R271). -/
def execBpl (b : Byte) (s : State) : Result :=
  .next (s.branching b (!s.flagN))

/-- BVC: branch if `P.V = 0` (42_control.md R272). -/
def execBvc (b : Byte) (s : State) : Result :=
  .next (s.branching b (!s.flagV))

/-- BVS: branch if `P.V = 1` (42_control.md R273). -/
def execBvs (b : Byte) (s : State) : Result :=
  .next (s.branching b s.flagV)

/-- BRK: push PC + 2 and `P | 0x30`, set I, and take the vector 0xFFFE (42_control.md R280). -/
def execBrk (s : State) : Result :=
  .next (s.takeInterrupt (s.pcNext 2) (statusBrk s.p) 0xFFFE)

/-- RTI: pull P and PC (42_control.md R281). -/
def execRti (s : State) : Result :=
  .next s.returnFromInterrupt

/-- CLC: `P.C <- 0` (42_control.md R290). -/
def execClc (s : State) : Result :=
  .next ((s.setC false).advance 1)

/-- SEC: `P.C <- 1` (42_control.md R291). -/
def execSec (s : State) : Result :=
  .next ((s.setC true).advance 1)

/-- CLI: `P.I <- 0` (42_control.md R292). -/
def execCli (s : State) : Result :=
  .next ((s.setI false).advance 1)

/-- SEI: `P.I <- 1` (42_control.md R293). -/
def execSei (s : State) : Result :=
  .next ((s.setI true).advance 1)

/-- CLD: `P.D <- 0` (42_control.md R294). -/
def execCld (s : State) : Result :=
  .next ((s.setD false).advance 1)

/-- SED: `P.D <- 1` (42_control.md R295). -/
def execSed (s : State) : Result :=
  .next ((s.setD true).advance 1)

/-- CLV: `P.V <- 0` (42_control.md R296). -/
def execClv (s : State) : Result :=
  .next ((s.setV false).advance 1)

/-- NOP: `PC <- PC_next` (42_control.md R300). -/
def execNop (s : State) : Result :=
  .next (s.advance 1)

/-- An unassigned opcode byte: `refuse(unassigned_opcode(op, PC))` (30_encoding.md R131, 60_exceptions.md R425). -/
def execUnassigned (op : Byte) (s : State) : Result :=
  .refused (.unassignedOpcode op s.pc)

end Sys2Proof.Machine
end

