-- ==== Sys2Proof/Machine/LoadStore.lean ====
section
/-! DEFINITION. Loads, stores, transfers and stack instructions (40_load_store.md R151 to R183). -/

namespace Sys2Proof.Machine

/-- LDA: `A <- M; SetZN(A)` (40_load_store.md R151). -/
def execLda (m : Src) (s : State) : Result :=
  .next (s.reading (.lda m) m fun d s => (s.setA d).setZN d)

/-- LDX: `X <- M; SetZN(X)` (40_load_store.md R152). -/
def execLdx (m : Src) (s : State) : Result :=
  .next (s.reading (.ldx m) m fun d s => (s.setX d).setZN d)

/-- LDY: `Y <- M; SetZN(Y)` (40_load_store.md R153). -/
def execLdy (m : Src) (s : State) : Result :=
  .next (s.reading (.ldy m) m fun d s => (s.setY d).setZN d)

/-- STA: `MemWrite(ea, 1, A)` (40_load_store.md R154). -/
def execSta (m : Addr) (s : State) : Result :=
  .next (s.storing (.sta m) m s.a)

/-- STX: `MemWrite(ea, 1, X)` (40_load_store.md R155). -/
def execStx (m : Addr) (s : State) : Result :=
  .next (s.storing (.stx m) m s.x)

/-- STY: `MemWrite(ea, 1, Y)` (40_load_store.md R156). -/
def execSty (m : Addr) (s : State) : Result :=
  .next (s.storing (.sty m) m s.y)

/-- TAX: `X <- A; SetZN(X)` (40_load_store.md R160). -/
def execTax (s : State) : Result :=
  .next (((s.setX s.a).setZN s.a).advance 1)

/-- TAY: `Y <- A; SetZN(Y)` (40_load_store.md R161). -/
def execTay (s : State) : Result :=
  .next (((s.setY s.a).setZN s.a).advance 1)

/-- TXA: `A <- X; SetZN(A)` (40_load_store.md R162). -/
def execTxa (s : State) : Result :=
  .next (((s.setA s.x).setZN s.x).advance 1)

/-- TYA: `A <- Y; SetZN(A)` (40_load_store.md R163). -/
def execTya (s : State) : Result :=
  .next (((s.setA s.y).setZN s.y).advance 1)

/-- TSX: `X <- SP; SetZN(X)` (40_load_store.md R164). -/
def execTsx (s : State) : Result :=
  .next (((s.setX s.sp).setZN s.sp).advance 1)

/-- TXS: `SP <- X`, no flag (40_load_store.md R165). -/
def execTxs (s : State) : Result :=
  .next ((s.setSp s.x).advance 1)

/-- PHA: `Push(A)` (40_load_store.md R180). -/
def execPha (s : State) : Result :=
  .next ((s.push s.a).advance 1)

/-- PHP: `Push(P | 0x30)` (40_load_store.md R181). -/
def execPhp (s : State) : Result :=
  .next ((s.push (statusBrk s.p)).advance 1)

/-- PLA: `A <- Pull(); SetZN(A)` (40_load_store.md R182). -/
def execPla (s : State) : Result :=
  .next (((s.pull.2.setA s.pull.1).setZN s.pull.1).advance 1)

/-- PLP: `P <- Pull() | 0x20` (40_load_store.md R183). -/
def execPlp (s : State) : Result :=
  .next ((s.pull.2.setP (statusPulled s.pull.1)).advance 1)

end Sys2Proof.Machine
end

