-- ==== Sys2Proof/Machine/Fetch.lean ====
section
/-! DEFINITION. The interrupt poll, the instruction fetch, and placing an instruction where it is fetched
(60_exceptions.md R400, R401; 20_memory.md R82). -/

namespace Sys2Proof.Machine

/-- What the poll at the start of a step decides (60_exceptions.md R401, R430). -/
inductive Poll where
  | nmi
  | irq
  | run
  deriving DecidableEq, Repr

/-- The interrupt poll: NMI first, then an IRQ that I does not mask, else one instruction (60_exceptions.md R401). -/
def State.poll (s : State) : Poll :=
  if s.nmiPending then .nmi
  else if s.irqLine && !s.flagI then .irq
  else .run

/-- Fetch one instruction: the opcode at PC, then as many operand bytes as its format has, each an ordinary read in address
order (20_memory.md R82, 30_encoding.md R110, R111). PC still is the opcode's address afterwards. -/
def State.fetch (s : State) : Instr × State :=
  let op := s.cpuRead s.pc
  let f := opcodeFormat op.1
  match f.length with
  | 1 => (f.complete 0 0, op.2)
  | 2 =>
    let b := op.2.cpuRead (s.pc + 1)
    (f.complete b.1 0, b.2)
  | _ =>
    let lo := op.2.cpuRead (s.pc + 1)
    let hi := lo.2.cpuRead (s.pc + 2)
    (f.complete lo.1 hi.1, hi.2)

/-! Placing an instruction (log 14). -/

/-- Whether a CPU address reads plain memory: RAM, or a present cartridge's PRG-RAM or PRG-ROM. -/
def State.isPlainMemory (s : State) (a : Word) : Bool :=
  decide (a.toNat < 0x2000) || (s.cart.present && decide (0x6000 ≤ a.toNat))

/-- Put a byte into the plain memory a CPU address reads. -/
def State.placeByte (s : State) (a : Word) (d : Byte) : State :=
  if a.toNat < 0x2000 then { s with ram := Memory.write s.ram (ramIndex a) d }
  else if a.toNat < 0x8000 then
    { s with cart := { s.cart with prgRam := Memory.write s.cart.prgRam (a.toNat - 0x6000) d } }
  else { s with cart := { s.cart with prgRom := Memory.write s.cart.prgRom (s.cart.prgIndex a) d } }

/-- Put bytes at rising addresses (modulo 65536) from `a` on. -/
def State.placeBytes (s : State) (a : Word) : List Byte → State
  | [] => s
  | d :: ds => State.placeBytes (s.placeByte a d) (a + 1) ds

/-- PC, moved to 0x0000 when it does not point at three bytes of plain memory. -/
def State.fetchablePc (s : State) : State :=
  if s.isPlainMemory s.pc && s.isPlainMemory (s.pc + 1) && s.isPlainMemory (s.pc + 2) then s else s.setPc 0

/-- The machine with no interrupt due, no refusal kept and the scheduler running, so that its next step fetches. -/
def State.readyToFetch (s : State) : State :=
  let s := if s.irqLine && !s.flagI then
      { s with apu := { s.apu with frameIrq := false, dmc := { s.apu.dmc with irq := false } } }
    else s
  { s with nmiPending := false, refusal := none, sched := { s.sched with mode := .running } }

end Sys2Proof.Machine
end

