-- ==== Sys2Proof/Machine/Step.lean ====
section
/-! DEFINITION. One step of the CPU, which drives the whole machine (60_exceptions.md R400). -/

namespace Sys2Proof.Machine

/-- The CPU part of a step that runs an instruction: the fetch, the instruction's base cycles (log 6), its meaning. -/
def State.runInstr (s : State) : Result :=
  exec s.fetch.1 (s.fetch.2.chargeBase s.fetch.1)

/-- The CPU part of a step (60_exceptions.md R400, parts 1 and 2). -/
def State.cpuPart (s : State) : Result :=
  match s.poll with
  | .nmi => .next s.enterNmi
  | .irq => .next s.enterIrq
  | .run => s.runInstr

/-- `step()` (60_exceptions.md R400): no step after a refusal (R425) or in a mode in which no step runs (R456; log 8); else the
CPU part, then the catch-up. -/
def step (s : State) : Host.Outcome State Fault Refusal :=
  match s.refusal with
  | some (op, pc) => .refused (.unassignedOpcode op pc)
  | none => if s.sched.mode = .running then thenCatchUp s.cpuPart else .refused (.notRunning s.sched.mode)

/-- The machine with a table word's instruction stored where the next step fetches it (log 14). -/
def State.withFetchWord (s : State) (nbits w : Nat) : State :=
  let s := s.fetchablePc.readyToFetch
  s.placeBytes s.pc (tableWordBytes nbits w)

end Sys2Proof.Machine
end

