-- ==== Sys2Proof/Machine/Loader.lean ====
section
/-! DEFINITION. Loading and unloading a cartridge file (61_bus_cartridge.md R481 to R484, R490, R492, R494). -/

namespace Sys2Proof.Machine

/-- Why a file is malformed (61 R482). -/
inductive Malformed where
  | badSignature
  | noPrg
  | truncated
  deriving DecidableEq, Repr

/-- The status `loadCartridge` reports (61 R482). -/
inductive LoadStatus where
  | ok
  | unsupportedMapper (mapper : BitVec 8)
  | malformed (why : Malformed)
  deriving DecidableEq, Repr

/-- The draws of a cartridge's memories (61 R482, R484, R495; 93 X1): the contents of PRG-RAM, CHR-RAM and the four-screen RAM. -/
structure CartDraws where
  prgRam : Memory
  chrRam : Memory
  vramExtra : Memory
  deriving DecidableEq, Repr

/-- The fields of a file's header (61 R481). -/
structure Header where
  nPrg : Nat
  nChr : Nat
  mapper : BitVec 8
  battery : Bool
  trainer : Bool
  mirroring : Mirroring
  deriving DecidableEq, Repr

/-- Byte `i` of a file; 0 past its end. -/
def fileByte (bytes : List Byte) (i : Nat) : Byte := bytes.getD i 0

/-- `"NES" + 0x1A` (61 R481). -/
def fileMagic : List Byte := [0x4E, 0x45, 0x53, 0x1A]

/-- Mirroring precedence: four-screen, then vertical if bit 0, else horizontal (61 R483; 90 C2). -/
def headerMirroring (f6 : Byte) : Mirroring :=
  if f6.getLsbD 3 then .fourScreen else if f6.getLsbD 0 then .vertical else .horizontal

/-- The header of a file (61 R481). -/
def parseHeader (bytes : List Byte) : Header where
  nPrg := (fileByte bytes 4).toNat
  nChr := (fileByte bytes 5).toNat
  mapper := (fileByte bytes 7).extractLsb' 4 4 ++ (fileByte bytes 6).extractLsb' 4 4
  battery := (fileByte bytes 6).getLsbD 1
  trainer := (fileByte bytes 6).getLsbD 2
  mirroring := headerMirroring (fileByte bytes 6)

/-- Where PRG data starts: after the header and the trainer (61 R482). -/
def Header.prgStart (h : Header) : Nat := 16 + if h.trainer then 512 else 0

/-- Where CHR data starts (61 R482). -/
def Header.chrStart (h : Header) : Nat := h.prgStart + 16384 * h.nPrg

/-- Where CHR data ends, which the file must reach (61 R482). -/
def Header.dataEnd (h : Header) : Nat := h.chrStart + 8192 * h.nChr

/-- Bytes `[from, from + n)` of a file. -/
def fileSlice (bytes : List Byte) (start n : Nat) : List Byte := (bytes.drop start).take n

/-- The trainer, or nothing (61 R482). -/
def Header.trainerBytes (h : Header) (bytes : List Byte) : List Byte :=
  if h.trainer then fileSlice bytes 16 512 else []

/-- PRG-RAM with the trainer at offset 0x1000, over a draw (61 R482). -/
def withTrainer (draw : Memory) (trainer : List Byte) : Memory := Memory.writeAll draw 0x1000 trainer

/-- The cartridge of a well-formed file (61 R480 to R484). -/
def Header.cart (h : Header) (bytes : List Byte) (d : CartDraws) : Cart where
  present := true
  nPrg := h.nPrg
  prgRom := Memory.ofList 0 (fileSlice bytes h.prgStart (16384 * h.nPrg))
  nChr4 := if h.nChr = 0 then 2 else 2 * h.nChr
  chrIsRam := decide (h.nChr = 0)
  chr := if h.nChr = 0 then d.chrRam else Memory.ofList 0 (fileSlice bytes h.chrStart (8192 * h.nChr))
  prgRam := withTrainer d.prgRam (h.trainerBytes bytes)
  trainer := h.trainerBytes bytes
  vramExtra := d.vramExtra
  mirroring := h.mirroring
  battery := h.battery
  mapper := h.mapper
  mapperKind := if h.mapper = 1 then .mmc1 else .nrom
  mmc1 := Mmc1.powerOn

/-- `LoadCartridge(bytes)`: the status and the new cartridge; a malformed file leaves it absent (61 R482, R492, R494). -/
def loadCart (bytes : List Byte) (d : CartDraws) : LoadStatus × Cart :=
  let h := parseHeader bytes
  if bytes.length < 16 ∨ bytes.take 4 ≠ fileMagic then (.malformed .badSignature, Cart.absent)
  else if h.nPrg = 0 then (.malformed .noPrg, Cart.absent)
  else if bytes.length < h.dataEnd then (.malformed .truncated, Cart.absent)
  else (if h.mapper = 0 ∨ h.mapper = 1 then .ok else .unsupportedMapper h.mapper, h.cart bytes d)

/-- The cartridge's power-on: ROM is kept, RAM is drawn, the trainer is put back, MMC1 takes its power-on values
(70_reset_and_hazards.md R743; log 12). -/
def Cart.powerOn (c : Cart) (d : CartDraws) : Cart :=
  if c.present then
    { c with
      prgRam := withTrainer d.prgRam c.trainer
      chr := if c.chrIsRam then d.chrRam else c.chr
      vramExtra := d.vramExtra
      mmc1 := Mmc1.powerOn }
  else c

end Sys2Proof.Machine
end

