-- ==== Sys2Proof/Machine/PowerOn.lean ====
section
/-! DEFINITION. The control surface: power-on, power-off, reset, pause, loading and unloading (64_scheduler.md R720;
70_reset_and_hazards.md R740 to R748). -/

namespace Sys2Proof.Machine

/-- What a power-on draws (93 X1, X5; 70 R744): every memory the hardware does not initialise, and two PPU flags. -/
structure PowerOnDraws where
  ram : Memory
  cart : CartDraws
  vblank : Bool
  spriteOverflow : Bool
  oam : Memory
  secOam : Memory
  ciram : Memory
  palette : PaletteRam
  frame : FrameBuffer
  deriving DecidableEq, Repr

/-- The draws `State.reset` takes: all zero (DESIGN CHOICE, log 2). -/
def PowerOnDraws.zero : PowerOnDraws where
  ram := []
  cart := { prgRam := [], chrRam := [], vramExtra := [] }
  vblank := false
  spriteOverflow := false
  oam := []
  secOam := []
  ciram := []
  palette := []
  frame := []

/-- The PPU at power-on (70 R744). -/
def PowerOnDraws.ppu (d : PowerOnDraws) : Ppu :=
  { Ppu.powerOnZero with
    vblank := d.vblank
    spriteOverflow := d.spriteOverflow
    oam := d.oam
    secOam := d.secOam
    ciram := d.ciram
    palette := d.palette
    frame := d.frame }

/-- `powerOn()`, the CPU last because it reads the reset vector through the cartridge (70 R740, 10_state.md R50, 64 R720). The
parameters and the host's own draw counter stay. A kept refusal ends with the run (log 8). -/
def State.powerOn (s : State) (d : PowerOnDraws) : State :=
  let t : State :=
    { a := 0, x := 0, y := 0, sp := 0xFD, p := 0x34, pc := 0, cycles := 7, nmiPending := false, refusal := none
      ram := d.ram
      cart := s.cart.powerOn d.cart
      pads := Pads.powerOn
      ppu := d.ppu
      apu := Apu.powerOn
      sched := Sched.powerOn
      params := s.params
      cost := 0
      draws := s.draws }
  let r := t.read16 0xFFFC
  r.2.setPc r.1

/-- `powerOff()` (64 R720, 70 R748). -/
def State.powerOff (s : State) : State := { s with sched := { s.sched with mode := .stopped } }

/-- The CPU's reset (10_state.md R51, R35): PC from the vector, I and bit 5 set, SP down by 3, the NMI latch cleared. -/
def State.cpuReset (s : State) : State :=
  let r := s.read16 0xFFFC
  { r.2 with
    pc := r.1
    p := setBit r.2.p 2 true ||| 0x20
    sp := r.2.sp - 3
    nmiPending := false }

/-- The PPU's reset (70 R744). -/
def Ppu.resetSignal (p : Ppu) : Ppu :=
  { p with ctrl := 0, mask := 0, t := 0, fineX := 0, w := false, readBuf := 0, nmiOut := false, oddFrame := false }

/-- The last value written to 0x4017, as far as the frame counter holds it (63_apu.md R642). -/
def Apu.frameCounterValue (u : Apu) : Byte := BitVec.ofBool u.fcMode ++ BitVec.ofBool u.fcInhibit ++ (0 : BitVec 6)

/-- The APU's reset: a write of 0x00 to 0x4015, the frame IRQ flag cleared, the frame counter written again (DEDUCED, log 11),
the DMC level cut to bit 0 (70 R746). -/
def Apu.resetSignal (u : Apu) : Apu :=
  let u := ({ u.writeEnable 0 with frameIrq := false } : Apu)
  let u := u.writeFrameCounter u.frameCounterValue
  { u with dmc := { u.dmc with level := u.dmc.level &&& 1 } }

/-- The device resets (70 R743 to R747): the cartridge, the controllers and RAM keep everything. -/
def State.deviceReset (s : State) : State :=
  { s with ppu := s.ppu.resetSignal, apu := s.apu.resetSignal }

/-- `reset()`: the CPU, the devices, then 7 cycles of catch-up (70 R741); without effect when stopped (64 R720). -/
def State.resetSignal (s : State) : Result :=
  if s.sched.mode = .stopped then .next s
  else ({ s.cpuReset.deviceReset with cost := 7 } : State).catchUp

/-- `pause()`, a toggle (64 R720). -/
def State.pause (s : State) : State :=
  match s.sched.mode with
  | .running => { s with sched := { s.sched with mode := .paused, acc := 0 } }
  | .paused => { s with sched := { s.sched with mode := .running } }
  | .stopped => s

/-- `loadCartridge(bytes)` (64 R720, 61 R482). -/
def State.loadCartridge (s : State) (bytes : List Byte) (d : CartDraws) : LoadStatus × State :=
  let r := loadCart bytes d
  (r.1, { s with cart := r.2 })

/-- `unloadCartridge()` (64 R720, 61 R494). -/
def State.unloadCartridge (s : State) : State := { s with cart := Cart.absent }

end Sys2Proof.Machine
end

