-- ==== Sys2Proof/Machine/Scheduler.lean ====
section
/-! DEFINITION. The scheduler: `run`, `RunFrame`, `HandOff` and `advance` (64_scheduler.md R700 to R713, R726). -/

namespace Sys2Proof.Machine

/-- Why a run ended early. -/
inductive Stop where
  | fault (r : Fault)
  | refused (r : Refusal)
  deriving DecidableEq, Repr

/-- The machine after a call of `run`, and why it ended early, if it did. -/
structure RunResult where
  state : State
  stop : Option Stop
  deriving DecidableEq, Repr

/-- What one frame hands to the collaborators: a copy of the frame buffer and the samples, oldest first (64 R726). -/
structure FrameOutput where
  frame : FrameBuffer
  audio : List Rat
  deriving DecidableEq, Repr

/-- Keep a refusal: the mark, and the opcode fetch's side effects, which are the only change the refused step made
(60_exceptions.md R425, 64 R701; log 8). -/
def State.keepRefusal (s : State) : Refusal → State
  | .unassignedOpcode op pc =>
    match s.refusal with
    | some _ => s
    | none => { (s.cpuRead s.pc).2 with refusal := some (op, pc) }
  | _ => s

/-- Change the budget's carry. -/
def State.setCarry (s : State) (c : Rat) : State := { s with sched := { s.sched with carry := c } }

/-- `while carry > 0`: the loop of `run` (64 R700), as the least fixed point of its own equation; none exactly when it never ends
(log 9). -/
def runLoop (s : State) : Option RunResult :=
  if s.sched.carry > 0 then
    match step s with
    | .next t => runLoop (t.setCarry (t.sched.carry - t.cost))
    | .fault r => some { state := s, stop := some (.fault r) }
    | .refused r => some { state := s.keepRefusal r, stop := some (.refused r) }
  else some { state := s, stop := none }
partial_fixpoint

/-- The loop of `run` cut off after at most `n` steps: none when it has not ended by then (64 R700). -/
def runSteps : (n : Nat) → State → Option RunResult
  | 0, s => if s.sched.carry > 0 then none else some { state := s, stop := none }
  | n + 1, s =>
    if s.sched.carry > 0 then
      match step s with
      | .next t => runSteps n (t.setCarry (t.sched.carry - t.cost))
      | .fault r => some { state := s, stop := some (.fault r) }
      | .refused r => some { state := s.keepRefusal r, stop := some (.refused r) }
    else some { state := s, stop := none }

/-- `run(budget)` (64 R700); after a refusal it refuses at once (64 R701). A loop that never ends is a stuck state (log 9). -/
def run (budget : Rat) (s : State) : RunResult :=
  match s.refusal with
  | some (op, pc) => { state := s, stop := some (.refused (.unassignedOpcode op pc)) }
  | none =>
    match runLoop (s.setCarry (s.sched.carry + budget)) with
    | some r => r
    | none => { state := s, stop := some (.fault .runDiverged) }

/-- `HandOff()`: the frame buffer is copied, the sample queue is moved out (64 R726, 63_apu.md R692). -/
def State.handOff (s : State) : FrameOutput × State :=
  ({ frame := s.ppu.frame, audio := s.apu.queue }, { s with apu := { s.apu with queue := [] } })

/-- The machine after some frames, what they handed off (oldest first), and why they ended early, if they did. -/
structure FramesResult where
  state : State
  outputs : List FrameOutput
  stop : Option Stop
  deriving DecidableEq, Repr

/-- `RunFrame()` (64 R706). -/
def runFrame (s : State) : FramesResult :=
  let r := run s.params.cyclesPerFrame s
  match r.stop with
  | some w => { state := r.state, outputs := [], stop := some w }
  | none =>
    let t := { r.state with sched := { r.state.sched with frames := r.state.sched.frames + 1 } }
    { state := t.handOff.2, outputs := [t.handOff.1], stop := none }

/-- The wall-clock parameters of `advance` (00_scope.md R12), in the ordered field the times are taken from: the reals, which the
spec names, or the rationals, which a state can hold (log 9). -/
structure Pacing (K : Type) where
  framePeriod : K
  dropThreshold : K
  paceTolerance : K
  stallThreshold : K

/-- The wall-clock parameters a state holds. -/
def State.pacing (s : State) : Pacing Rat where
  framePeriod := s.params.framePeriod
  dropThreshold := s.params.dropThreshold
  paceTolerance := s.params.paceTolerance
  stallThreshold := s.params.stallThreshold

/-- The machine and the accumulator after a call of `advance`, what the frames handed off (oldest first), and why it ended early, if
it did. -/
structure PacedResult (K : Type) where
  acc : K
  frames : FramesResult

section

variable {K : Type} [Field K] [LinearOrder K]

/-- `while acc >= (1 - PACE_TOLERANCE) * FRAME_PERIOD`: the loop of `advance` (64 R711), as the least fixed point of its own
equation; `outputs` is what earlier frames handed off; none exactly when it never ends (log 9). -/
def frameLoop (p : Pacing K) (acc : K) (outputs : List FrameOutput) (s : State) : Option (PacedResult K) :=
  if acc ≥ (1 - p.paceTolerance) * p.framePeriod then
    match (runFrame s).stop with
    | some w => some { acc := acc, frames := { state := (runFrame s).state, outputs := outputs, stop := some w } }
    | none => frameLoop p (acc - p.framePeriod) (outputs ++ (runFrame s).outputs) (runFrame s).state
  else some { acc := acc, frames := { state := s, outputs := outputs, stop := none } }
partial_fixpoint

/-- Whether one frame is dropped: `acc >= DROP_THRESHOLD * FRAME_PERIOD` (64 R711; 92 D50). -/
def Pacing.dropDue (p : Pacing K) (acc : K) : Bool := decide (acc ≥ p.dropThreshold * p.framePeriod)

/-- Count a dropped frame (64 R711). -/
def State.countDrop (s : State) : State := { s with sched := { s.sched with dropped := s.sched.dropped + 1 } }

/-- The loop of `advance` on a machine from which a late frame may have been dropped; a loop that never ends is a stuck state
(64 R711; log 9). -/
def catchUpFrames (p : Pacing K) (acc : K) (s : State) : PacedResult K :=
  match frameLoop p acc [] s with
  | some r => r
  | none => { acc := acc, frames := { state := s, outputs := [], stop := some (.fault .runDiverged) } }

/-- `advance(dt)` with the accumulator `acc` and the wall-clock parameters `p` (64 R711). -/
def advanceWith (p : Pacing K) (acc dt : K) (s : State) : PacedResult K :=
  if s.sched.mode ≠ .running then { acc := acc, frames := { state := s, outputs := [], stop := none } }
  else if acc + dt > p.stallThreshold then
    { acc := 0, frames := { state := { s with sched := { s.sched with mode := .paused } }, outputs := [], stop := none } }
  else if p.dropDue (acc + dt) then catchUpFrames p (acc + dt - p.framePeriod) s.countDrop
  else catchUpFrames p (acc + dt) s

end

/-- Change the elapsed-time accumulator. -/
def State.setAcc (s : State) (acc : Rat) : State := { s with sched := { s.sched with acc := acc } }

/-- `advance(dt)` with the accumulator and the parameters the state holds (64 R711). -/
def advance (dt : Rat) (s : State) : FramesResult :=
  let r := advanceWith s.pacing s.sched.acc dt s
  { r.frames with state := r.frames.state.setAcc r.acc }

end Sys2Proof.Machine
end

