-- ==== Sys2Proof/Safety.lean ====
section
/-! DEFINITION. What holds of every state of a safe run: the invariants claims are stated with. -/

namespace Sys2Proof.Safety

open Sys2Proof.Machine

/-- Every memory is in canonical form, and its entries lie within its size: the fixed sizes of 10_state.md R49, and for PRG-ROM
and CHR the banks the cartridge has, at least one and at least two when it is present (61_bus_cartridge.md R480, R482, R484). -/
structure MemoriesOk (s : State) : Prop where
  banks : s.cart.present = true → 1 ≤ s.cart.nPrg ∧ 2 ≤ s.cart.nChr4
  ram : Memory.wf s.ram = true ∧ Memory.within 2048 s.ram = true
  prgRom : Memory.wf s.cart.prgRom = true ∧ Memory.within (16384 * s.cart.nPrg) s.cart.prgRom = true
  chr : Memory.wf s.cart.chr = true ∧ Memory.within (4096 * s.cart.nChr4) s.cart.chr = true
  prgRam : Memory.wf s.cart.prgRam = true ∧ Memory.within 8192 s.cart.prgRam = true
  vramExtra : Memory.wf s.cart.vramExtra = true ∧ Memory.within 2048 s.cart.vramExtra = true
  oam : Memory.wf s.ppu.oam = true ∧ Memory.within 256 s.ppu.oam = true
  secOam : Memory.wf s.ppu.secOam = true ∧ Memory.within 32 s.ppu.secOam = true
  ciram : Memory.wf s.ppu.ciram = true ∧ Memory.within 2048 s.ppu.ciram = true
  palette : Memory.wf s.ppu.palette = true ∧ Memory.within 32 s.ppu.palette = true
  frame : Memory.wf s.ppu.frame = true ∧ Memory.within 61440 s.ppu.frame = true

/-- Every counter lies in the range the spec gives it: scanline 0..261, dot 0..340 (62_ppu.md R560), at most 8 sprite units in use
(R593), at most 8 controller reads counted, and an MMC1 count of 0..4 (61_bus_cartridge.md R500, R510), DMC bits 1..8
(63_apu.md R620). -/
structure CountersOk (s : State) : Prop where
  scanline : s.ppu.scanline < 262
  dot : s.ppu.dot < 341
  sprCount : s.ppu.sprCount ≤ 8
  sprites : s.ppu.sprites.length = 8
  reads0 : s.pads.reads0 ≤ 8
  reads1 : s.pads.reads1 ≤ 8
  mmc1Count : s.cart.mmc1.count < 5
  dmcBits : 1 ≤ s.apu.dmc.bits ∧ s.apu.dmc.bits ≤ 8

/-- Bit 5 of P "always reads 1" (10_state.md R35). -/
abbrev StatusOk (s : State) : Prop := s.p.getLsbD 5 = true

/-- The NMI output is `vblank AND ctrl[7]` (62_ppu.md R567). -/
abbrev NmiOutputOk (s : State) : Prop := s.ppu.nmiOut = s.ppu.nmiLevel

/-- The invariant of the machine: it holds at reset and every step keeps it. -/
structure Inv (s : State) : Prop where
  memories : MemoriesOk s
  counters : CountersOk s
  status : StatusOk s
  nmiOutput : NmiOutputOk s

end Sys2Proof.Safety
end

