-- ==== Sys2Proof/Certificates/Slice0/Obligations.lean ====
section
/-! DEFINITION. The statements about this model, for the provers. The vocabulary comes first (`Sys2Proof.Claims`), then one
definition for each statement, in the order of OBLIGATIONS.json. -/

namespace Sys2Proof.Claims

open Sys2Proof.Machine

/-- Z and N are those of the byte `r` (00_scope.md R18). -/
def ZN (t : State) (r : Byte) : Prop := t.flagZ = decide (r = 0) ∧ t.flagN = r.getLsbD 7

/-- Every bit of P that is not in `written` is the same in both states. -/
def KeepsFlags (s t : State) (written : List Nat) : Prop :=
  ∀ j, j < 8 → j ∉ written → t.p.getLsbD j = s.p.getLsbD j

/-- Every byte of every memory reads the same in both states: internal RAM, the whole cartridge (PRG-ROM, PRG-RAM, CHR,
four-screen RAM, mapper registers), OAM, secondary OAM, CIRAM and the palette. -/
def SameMemory (s t : State) : Prop :=
  t.ram = s.ram ∧ t.cart = s.cart ∧ t.ppu.oam = s.ppu.oam ∧ t.ppu.secOam = s.ppu.secOam ∧ t.ppu.ciram = s.ppu.ciram ∧
  t.ppu.palette = s.ppu.palette

/-- The page-cross penalty as CYCLES gives it: 1 when the address crossed a page and the opcode's row is marked `*`; and with
the default CYCLES a well-formed reading instruction pays it exactly when its address crossed a page (70 R770). -/
def ReadCost (s t : State) (i : Instr) (cross : Bool) : Prop :=
  t.cost = s.cost + (if cross && (instrCycles s.params i).pageCross then 1 else 0) ∧
  (s.params.cycleOverrides = [] → i.wellFormed = true → t.cost = s.cost + if cross then 1 else 0)

/-- What an instruction that reads the operand `m` leaves alone: all but A, X, Y, P, PC and the cost is as the operand's reads
leave it (`s.operand m` says how), PC is past the instruction, no memory changes, SP stays. -/
def ReadFrame (s t : State) (m : Src) : Prop :=
  t = { (s.operand m).2.2 with
    a := t.a, x := t.x, y := t.y, p := t.p, cost := t.cost
    pc := s.pc + BitVec.ofNat 16 (1 + m.size) } ∧
  t.sp = s.sp ∧ SameMemory s t

/-- The opcodes of an instruction with the modes imm, zp, zpx, abs, absx, absy, indx, indy, in that order. -/
def FullEncoding (mk : Src → Instr) (ops : List Byte) : Prop :=
  ∀ b w, [Src.imm b, .mem (.zp b), .mem (.zpx b), .mem (.abs w), .mem (.absx w), .mem (.absy w), .mem (.indx b),
    .mem (.indy b)].map (fun m => (mk m).opcode) = ops.map some

/-- The opcodes of an instruction with the modes zp, zpx, abs, absx, in that order. -/
def RmwEncoding (mk : Addr → Instr) (ops : List Byte) : Prop :=
  ∀ b w, [Addr.zp b, .zpx b, .abs w, .absx w].map (fun m => (mk m).opcode) = ops.map some

/-- The registers A, X, Y, SP and P stay. -/
def SameRegs (s t : State) : Prop := t.a = s.a ∧ t.x = s.x ∧ t.y = s.y ∧ t.sp = s.sp ∧ t.p = s.p

/-- What a CPU write of `d` to the address `ea` leaves alone and leaves behind, byte by byte. Below 0x2000 the RAM byte `ea`
reaches holds `d` and every other RAM byte is kept; from 0x6000 to 0x7FFF with a cartridge the same holds of PRG-RAM; PRG-ROM
is kept wherever the write goes; OAM is kept unless the write reaches a PPU register or OAM DMA; CHR, CIRAM, the four-screen
RAM and the palette are kept unless it reaches a PPU register. -/
def StoredAt (s t : State) (ea : Word) (d : Byte) : Prop :=
  (Memory.wf s.ram = true → ea.toNat < 0x2000 → Memory.read t.ram (ramIndex ea) = d) ∧
  (Memory.wf s.ram = true → ∀ j, (ea.toNat < 0x2000 → j ≠ ramIndex ea) → Memory.read t.ram j = Memory.read s.ram j) ∧
  (Memory.wf s.cart.prgRam = true → s.cart.present = true → 0x6000 ≤ ea.toNat → ea.toNat < 0x8000 →
    Memory.read t.cart.prgRam (ea.toNat - 0x6000) = d) ∧
  (Memory.wf s.cart.prgRam = true → ∀ j, (0x6000 ≤ ea.toNat → ea.toNat < 0x8000 → j ≠ ea.toNat - 0x6000) →
    Memory.read t.cart.prgRam j = Memory.read s.cart.prgRam j) ∧
  t.cart.prgRom = s.cart.prgRom ∧
  (¬ (0x2000 ≤ ea.toNat ∧ ea.toNat < 0x4000) → ea.toNat ≠ 0x4014 → t.ppu.oam = s.ppu.oam) ∧
  (¬ (0x2000 ≤ ea.toNat ∧ ea.toNat < 0x4000) →
    t.cart.chr = s.cart.chr ∧ t.cart.vramExtra = s.cart.vramExtra ∧ t.ppu.ciram = s.ppu.ciram ∧
    t.ppu.palette = s.ppu.palette)

/-- What a storing instruction leaves alone besides the bytes of `StoredAt`: everything but PC, the cost, the memories and the
devices a write can reach. -/
def StoreFrame (s t : State) (length : Nat) : Prop :=
  t = { s with
    pc := s.pc + BitVec.ofNat 16 length
    p := t.p, cost := t.cost, ram := t.ram, cart := t.cart, pads := t.pads, ppu := t.ppu, apu := t.apu
    nmiPending := t.nmiPending, draws := t.draws }

/-- The RAM byte the `k`-th push from now on writes (10_state.md R41). -/
def pushSlot (s : State) (k : Nat) : Nat :=
  0x100 + ((match s.params.stackOrder with | .doc => s.sp - 1 | .mos6502 => s.sp : Byte) - BitVec.ofNat 8 k).toNat

/-- The RAM byte the `k`-th pull from now on reads (10_state.md R41). -/
def pullSlot (s : State) (k : Nat) : Nat :=
  0x100 + ((match s.params.stackOrder with | .doc => s.sp | .mos6502 => s.sp + 1 : Byte) + BitVec.ofNat 8 k).toNat

/-- The byte the `k`-th pull from now on gives. -/
def pulled (s : State) (k : Nat) : Byte := Memory.read s.ram (pullSlot s k)

/-- The bytes `ds`, in this order, were pushed: SP is down by their number, each is in its slot, every other RAM byte is as it
was. -/
def Pushed (s t : State) (ds : List Byte) : Prop :=
  t.sp = s.sp - BitVec.ofNat 8 ds.length ∧
  (Memory.wf s.ram = true →
    (∀ k, k < ds.length → Memory.read t.ram (pushSlot s k) = ds.getD k 0) ∧
    ∀ j, (∀ k, k < ds.length → j ≠ pushSlot s k) → Memory.read t.ram j = Memory.read s.ram j)

/-- The 16-bit value of the vector at `a` (60_exceptions.md R410): the cartridge's bytes at `a + 1` and `a`. -/
def vectorAt (s : State) (a : Word) : Word := word (s.cart.read s.params (a + 1)) (s.cart.read s.params a)

/-- The dot a PPU is at, counted from scanline 0, dot 0. -/
def dotPos (p : Ppu) : Nat := 341 * p.scanline + p.dot

/-- The machine after `n` dots. -/
def dots (n : Nat) (s : State) : State := State.ppuTick^[n] s

/-- The machine after `n` reads of the controller port at `a` (0x4016 or 0x4017). -/
def padReads (a : Word) (n : Nat) (s : State) : State := (fun u : State => (u.cpuRead a).2)^[n] s

/-- The table of 70_reset_and_hazards.md R770 for the mnemonics that have the eight modes of LDA. -/
def fullRow : Src → CycleRow
  | .imm _ => ⟨2, false⟩
  | .mem (.zp _) => ⟨3, false⟩
  | .mem (.zpx _) | .mem (.zpy _) | .mem (.abs _) => ⟨4, false⟩
  | .mem (.absx _) | .mem (.absy _) => ⟨4, true⟩
  | .mem (.indx _) => ⟨6, false⟩
  | .mem (.indy _) => ⟨5, true⟩

/-- The table of 70_reset_and_hazards.md R770 for stores. -/
def storeRow : Addr → CycleRow
  | .zp _ => ⟨3, false⟩
  | .zpx _ | .zpy _ | .abs _ => ⟨4, false⟩
  | .absx _ | .absy _ => ⟨5, false⟩
  | .indx _ | .indy _ => ⟨6, false⟩

/-- The table of 70_reset_and_hazards.md R770 for read-modify-write instructions on memory. -/
def rmwRow : Addr → CycleRow
  | .zp _ => ⟨5, false⟩
  | .absx _ => ⟨7, false⟩
  | _ => ⟨6, false⟩

/-- The table of 70_reset_and_hazards.md R770, by mnemonic and mode (R771: stores and read-modify-write never pay a cross). -/
def tableRow : Instr → CycleRow
  | .lda m | .ldx m | .ldy m | .adc m | .sbc m | .and m | .ora m | .eor m | .cmp m | .cpx m | .cpy m => fullRow m
  | .bit m => fullRow (.mem m)
  | .sta m | .stx m | .sty m => storeRow m
  | .inc m | .dec m => rmwRow m
  | .asl m | .lsr m | .rol m | .ror m =>
    match m with
    | .acc => ⟨2, false⟩
    | .mem m => rmwRow m
  | .brk => ⟨7, false⟩
  | .jmp (.abs _) | .pha | .php => ⟨3, false⟩
  | .pla | .plp => ⟨4, false⟩
  | .jmp (.ind _) => ⟨5, false⟩
  | .jsr _ | .rts | .rti => ⟨6, false⟩
  | .tax | .tay | .txa | .tya | .tsx | .txs | .inx | .iny | .dex | .dey => ⟨2, false⟩
  | .bcc _ | .bcs _ | .beq _ | .bmi _ | .bne _ | .bpl _ | .bvc _ | .bvs _ => ⟨2, false⟩
  | .clc | .sec | .cli | .sei | .cld | .sed | .clv | .nop => ⟨2, false⟩
  | .unassigned _ => ⟨0, false⟩

/-- The CIRAM half (0 or 1) or four-screen half (2 or 3) that serves nametable `q`, by the table of 61_bus_cartridge.md R487. -/
def ntHalf : Mirroring → Nat → Nat
  | .horizontal, q => q / 2
  | .vertical, q => q % 2
  | .singleLow, _ => 0
  | .singleHigh, _ => 1
  | .fourScreen, q => q

end Sys2Proof.Claims

open Sys2Proof Sys2Proof.Machine Sys2Proof.Claims

/-! ## Encoding -/

/-- Decoding the encoding of a well-formed instruction gives it back, whatever bytes follow (30_encoding.md R110, R111). -/
def Obligations.DecodeEncode : Prop :=
  ∀ (i : Instr) (rest : List Byte), i.wellFormed = true → decode (encode i ++ rest) = .ok (i, rest)

/-- Encoding a decoded instruction gives the bytes back: each byte string has one meaning (30_encoding.md R110, R133). -/
def Obligations.EncodeDecode : Prop :=
  ∀ (bytes rest : List Byte) (i : Instr), decode bytes = .ok (i, rest) → i.wellFormed = true ∧ encode i ++ rest = bytes

/-- Every byte value decodes to exactly one instruction: one of the 105 listed bytes to the unassigned row, any other to one of
the 56 mnemonics (30_encoding.md R131, R133). -/
def Obligations.EveryByteDecodes : Prop :=
  unassignedBytes.length = 105 ∧ unassignedBytes.Nodup ∧
  ∀ op b1 b2 : Byte, ∃ (i : Instr) (rest : List Byte),
    decode [op, b1, b2] = .ok (i, rest) ∧ i.opcode = some op ∧
    (if op.toNat ∈ unassignedBytes then i = .unassigned op else ∀ u, i ≠ .unassigned u)

/-- Words written out bit by bit from the encodings of 40, 41 and 42 (formats F1, F2, F3 of 30_encoding.md R111; the first byte is
bits 7..0). -/
def Obligations.SampleWordsDecode : Prop :=
  decodeTableWord 16 0b10000000_10101001 = some (.lda (.imm 0x80)) ∧
  decodeTableWord 24 0b00000011_00000000_10001101 = some (.sta (.abs 0x0300)) ∧
  decodeTableWord 8 0b10101010 = some .tax ∧
  decodeTableWord 8 0b01001000 = some .pha ∧
  decodeTableWord 16 0b01010000_01101001 = some (.adc (.imm 0x50)) ∧
  decodeTableWord 24 0b00000011_00000000_11001110 = some (.dec (.abs 0x0300)) ∧
  decodeTableWord 8 0b01101010 = some (.ror .acc) ∧
  decodeTableWord 24 0b00010000_11111111_01101100 = some (.jmp (.ind 0x10FF)) ∧
  decodeTableWord 16 0b00001110_10010000 = some (.bcc 0x0E) ∧
  decodeTableWord 8 0b00000000 = some .brk ∧
  decodeTableWord 8 0b11101010 = some .nop ∧
  decodeTableWord 8 0b00000010 = some (.unassigned 0x02)

/-! ## The step -/

/-- When three bytes of plain memory at PC decode to `i`, and no interrupt is due, the step is the meaning of `i` on the same
machine with `i`'s base cycles charged, followed by the device catch-up; PC is still the opcode's address when `i` runs
(60_exceptions.md R400, 30_encoding.md R110). That the base cycles are in the cost before `i` runs is the model's choice (log 6). -/
def Obligations.StepRunsDecodedInstr : Prop :=
  ∀ (s : State) (i : Instr) (rest : List Byte),
    s.refusal = none → s.sched.mode = .running → s.poll = .run →
    s.isPlainMemory s.pc = true → s.isPlainMemory (s.pc + 1) = true → s.isPlainMemory (s.pc + 2) = true →
    decode [(s.cpuRead s.pc).1, (s.cpuRead (s.pc + 1)).1, (s.cpuRead (s.pc + 2)).1] = .ok (i, rest) →
    step s = thenCatchUp (exec i { s with cost := (instrCycles s.params i).base })

/-- Instruction fetch from anywhere: each instruction byte is an ordinary bus read in address order, with its side effects, and
no byte past the instruction is read (20_memory.md R82, 30_encoding.md R110). That the base cycles are charged before the meaning
runs is the model's choice (log 6). -/
def Obligations.StepFetchesThroughBus : Prop :=
  ∀ (s : State) (i : Instr),
    s.refusal = none → s.sched.mode = .running → s.poll = .run →
    (decode [(s.cpuRead s.pc).1] = .ok (i, []) →
      step s = thenCatchUp (exec i ((s.cpuRead s.pc).2.chargeBase i))) ∧
    (decode [(s.cpuRead s.pc).1, ((s.cpuRead s.pc).2.cpuRead (s.pc + 1)).1] = .ok (i, []) →
      step s = thenCatchUp (exec i (((s.cpuRead s.pc).2.cpuRead (s.pc + 1)).2.chargeBase i))) ∧
    (decode [(s.cpuRead s.pc).1, ((s.cpuRead s.pc).2.cpuRead (s.pc + 1)).1,
        (((s.cpuRead s.pc).2.cpuRead (s.pc + 1)).2.cpuRead (s.pc + 2)).1] = .ok (i, []) →
      step s = thenCatchUp (exec i ((((s.cpuRead s.pc).2.cpuRead (s.pc + 1)).2.cpuRead (s.pc + 2)).2.chargeBase i)))

/-- The interrupt poll: a pending NMI is taken; else an IRQ if the line is high and I is 0; else one instruction runs
(60_exceptions.md R401). No step runs in a mode other than running (R456); that the step then answers the refusal `notRunning` is
the model's choice (log 8), and so is that the base cycles are charged before the meaning runs (log 6). -/
def Obligations.PollDecides : Prop :=
  ∀ s : State, s.refusal = none →
    step s =
      if s.sched.mode ≠ .running then .refused (.notRunning s.sched.mode)
      else if s.nmiPending = true then s.enterNmi.catchUp
      else if (s.apu.frameIrq = true ∨ s.apu.dmc.irq = true) ∧ s.p.getLsbD 2 = false then s.enterIrq.catchUp
      else thenCatchUp (exec s.fetch.1 (s.fetch.2.chargeBase s.fetch.1))

/-! ## Interrupts -/

/-- NMI entry: PC high, PC low and `(P & 0xEF) | 0x20` are pushed, I is set, PC comes from 0xFFFA, the latch is cleared, the cost
is 7, nothing else changes (60_exceptions.md R410, R411, R412). -/
def Obligations.NmiEntersHandler : Prop :=
  ∀ s : State, s.nmiPending = true → ∃ t, s.cpuPart = .next t ∧
    t.pc = vectorAt s 0xFFFA ∧ t.flagI = true ∧ KeepsFlags s t [2] ∧
    Pushed s t [hiByte s.pc, loByte s.pc, (s.p &&& 0xEF) ||| 0x20] ∧
    t = { s with pc := t.pc, p := t.p, sp := t.sp, ram := t.ram, nmiPending := false, cost := 7 }

/-- IRQ entry: the same with the vector 0xFFFE; the device's flag stays set (60_exceptions.md R410, R411, R413). -/
def Obligations.IrqEntersHandler : Prop :=
  ∀ s : State, s.nmiPending = false → s.irqLine = true → s.flagI = false → ∃ t, s.cpuPart = .next t ∧
    t.pc = vectorAt s 0xFFFE ∧ t.flagI = true ∧ KeepsFlags s t [2] ∧
    Pushed s t [hiByte s.pc, loByte s.pc, (s.p &&& 0xEF) ||| 0x20] ∧
    t = { s with pc := t.pc, p := t.p, sp := t.sp, ram := t.ram, cost := 7 } ∧ t.irqLine = true

/-- BRK pushes PC + 2 and `P | 0x30`, sets I and no other flag, and takes PC from 0xFFFE, whatever I holds (42_control.md R280). -/
def Obligations.BrkEntersHandler : Prop :=
  Instr.brk.opcode = some 0x00 ∧
  ∀ s : State, ∃ t, exec .brk s = .next t ∧
    t.pc = vectorAt s 0xFFFE ∧ t.flagI = true ∧ KeepsFlags s t [2] ∧
    Pushed s t [hiByte (s.pc + 2), loByte (s.pc + 2), s.p ||| 0x30] ∧
    t = { s with pc := t.pc, p := t.p, sp := t.sp, ram := t.ram }

/-- RTI pulls P with bit 5 forced to 1, then PC low and PC high, and adds nothing to PC (42_control.md R281). -/
def Obligations.RtiRestoresState : Prop :=
  Instr.rti.opcode = some 0x40 ∧
  ∀ s : State, exec .rti s = .next { s with
    p := pulled s 0 ||| 0x20
    pc := word (pulled s 2) (pulled s 1)
    sp := s.sp + 3 }

/-- RTI undoes an entry. After BRK it resumes at PC + 2 with the old flags but for B, which reads as pushed (1); after an NMI or
IRQ entry it resumes at the interrupted PC with the old flags and B = 0; SP is back where it was; A, X, Y stay
(60_exceptions.md R435, 42_control.md R281). -/
def Obligations.RtiUndoesEntry : Prop :=
  ∀ s : State, Memory.wf s.ram = true →
    (∀ t, exec .brk s = .next t → ∃ u, exec .rti t = .next u ∧
      u.pc = s.pc + 2 ∧ u.p = s.p ||| 0x30 ∧ u.sp = s.sp ∧ u.a = s.a ∧ u.x = s.x ∧ u.y = s.y) ∧
    (∃ u, exec .rti s.enterNmi = .next u ∧
      u.pc = s.pc ∧ u.p = (s.p &&& 0xEF) ||| 0x20 ∧ u.sp = s.sp ∧ u.a = s.a ∧ u.x = s.x ∧ u.y = s.y) ∧
    (∃ u, exec .rti s.enterIrq = .next u ∧
      u.pc = s.pc ∧ u.p = (s.p &&& 0xEF) ||| 0x20 ∧ u.sp = s.sp ∧ u.a = s.a ∧ u.x = s.x ∧ u.y = s.y)

/-- A step that fetches an unassigned byte as its opcode is refused with the byte and its address; `run` keeps the mark, with the
fetch's side effects and no other change; every later step and run is refused (30_encoding.md R131, 60_exceptions.md R425,
64_scheduler.md R701). -/
def Obligations.RefusalIsKept : Prop :=
  (∀ (op : Byte) (s : State), exec (.unassigned op) s = .refused (.unassignedOpcode op s.pc)) ∧
  (∀ s : State, s.refusal = none → s.sched.mode = .running → s.poll = .run →
    (s.cpuRead s.pc).1.toNat ∈ unassignedBytes →
    step s = .refused (.unassignedOpcode (s.cpuRead s.pc).1 s.pc) ∧
    ∀ budget : Rat, s.sched.carry + budget > 0 →
      run budget s =
        { state := { ((s.setCarry (s.sched.carry + budget)).cpuRead s.pc).2 with refusal := some ((s.cpuRead s.pc).1, s.pc) }
          stop := some (.refused (.unassignedOpcode (s.cpuRead s.pc).1 s.pc)) }) ∧
  (∀ (s : State) (op : Byte) (pc : Word) (budget : Rat), s.refusal = some (op, pc) →
    step s = .refused (.unassignedOpcode op pc) ∧
    run budget s = { state := s, stop := some (.refused (.unassignedOpcode op pc)) })

/-! ## Loads, stores, transfers, stack -/

/-- LDA, LDX and LDY load the operand and set Z and N from it, for every operand form (40_load_store.md R151, R152, R153). -/
def Obligations.LoadsSetRegisterAndFlags : Prop :=
  FullEncoding .lda [0xA9, 0xA5, 0xB5, 0xAD, 0xBD, 0xB9, 0xA1, 0xB1] ∧
  (∀ b w, [Src.imm b, .mem (.zp b), .mem (.zpy b), .mem (.abs w), .mem (.absy w)].map (fun m => (Instr.ldx m).opcode) =
    [some 0xA2, some 0xA6, some 0xB6, some 0xAE, some 0xBE]) ∧
  (∀ b w, [Src.imm b, .mem (.zp b), .mem (.zpx b), .mem (.abs w), .mem (.absx w)].map (fun m => (Instr.ldy m).opcode) =
    [some 0xA0, some 0xA4, some 0xB4, some 0xAC, some 0xBC]) ∧
  ∀ (m : Src) (s : State),
    (∃ t, exec (.lda m) s = .next t ∧ t.a = (s.operand m).1 ∧ t.x = s.x ∧ t.y = s.y ∧
      ZN t t.a ∧ KeepsFlags s t [1, 7] ∧ ReadFrame s t m ∧ ReadCost s t (.lda m) (s.operand m).2.1) ∧
    (∃ t, exec (.ldx m) s = .next t ∧ t.x = (s.operand m).1 ∧ t.a = s.a ∧ t.y = s.y ∧
      ZN t t.x ∧ KeepsFlags s t [1, 7] ∧ ReadFrame s t m ∧ ReadCost s t (.ldx m) (s.operand m).2.1) ∧
    (∃ t, exec (.ldy m) s = .next t ∧ t.y = (s.operand m).1 ∧ t.a = s.a ∧ t.x = s.x ∧
      ZN t t.y ∧ KeepsFlags s t [1, 7] ∧ ReadFrame s t m ∧ ReadCost s t (.ldy m) (s.operand m).2.1)

/-- STA, STX and STY write their register to the effective address, which they do not read, and change no flag
(40_load_store.md R154, R155, R156). With the default CYCLES a well-formed store pays no page cross (70_reset_and_hazards.md R771);
a store to 0x4014 adds the DMA's cycles (61_bus_cartridge.md R515, R516). That the field `cost` holds CYCLES(op) when the DMA reads
it is the model's choice (log 6). -/
def Obligations.StoresWriteByte : Prop :=
  (∀ b w, [Addr.zp b, .zpx b, .abs w, .absx w, .absy w, .indx b, .indy b].map (fun m => (Instr.sta m).opcode) =
    [some 0x85, some 0x95, some 0x8D, some 0x9D, some 0x99, some 0x81, some 0x91]) ∧
  (∀ b w, [Addr.zp b, .zpy b, .abs w].map (fun m => (Instr.stx m).opcode) = [some 0x86, some 0x96, some 0x8E]) ∧
  (∀ b w, [Addr.zp b, .zpx b, .abs w].map (fun m => (Instr.sty m).opcode) = [some 0x84, some 0x94, some 0x8C]) ∧
  ∀ (m : Addr) (s : State),
    ∀ id ∈ [(Instr.sta m, s.a), (Instr.stx m, s.x), (Instr.sty m, s.y)],
      ∃ t, exec id.1 s = .next t ∧
        t = { s.cpuWrite (s.resolve m).1 id.2 with pc := t.pc, cost := t.cost } ∧
        SameRegs s t ∧ StoredAt s t (s.resolve m).1 id.2 ∧ StoreFrame s t (1 + m.size) ∧
        (s.params.cycleOverrides = [] → id.1.wellFormed = true →
          t.cost = s.cost + if (s.resolve m).1 = 0x4014 then 513 + (s.cycles + s.cost) % 2 else 0)

/-- TAX, TAY, TXA, TYA and TSX copy a register and set Z and N; TXS copies X to SP and sets no flag
(40_load_store.md R160 to R165). -/
def Obligations.TransfersCopyRegister : Prop :=
  [Instr.tax, .tay, .txa, .tya, .tsx, .txs].map Instr.opcode =
    [some 0xAA, some 0xA8, some 0x8A, some 0x98, some 0xBA, some 0x9A] ∧
  ∀ s : State,
    (∃ t, exec .tax s = .next t ∧ t = { s with x := s.a, p := t.p, pc := s.pc + 1 } ∧ ZN t s.a ∧ KeepsFlags s t [1, 7]) ∧
    (∃ t, exec .tay s = .next t ∧ t = { s with y := s.a, p := t.p, pc := s.pc + 1 } ∧ ZN t s.a ∧ KeepsFlags s t [1, 7]) ∧
    (∃ t, exec .txa s = .next t ∧ t = { s with a := s.x, p := t.p, pc := s.pc + 1 } ∧ ZN t s.x ∧ KeepsFlags s t [1, 7]) ∧
    (∃ t, exec .tya s = .next t ∧ t = { s with a := s.y, p := t.p, pc := s.pc + 1 } ∧ ZN t s.y ∧ KeepsFlags s t [1, 7]) ∧
    (∃ t, exec .tsx s = .next t ∧ t = { s with x := s.sp, p := t.p, pc := s.pc + 1 } ∧ ZN t s.sp ∧ KeepsFlags s t [1, 7]) ∧
    exec .txs s = .next { s with sp := s.x, pc := s.pc + 1 }

/-- PHA pushes A; PHP pushes P with bits 4 and 5 set; PLA pulls A and sets Z and N; PLP pulls P with bit 5 forced to 1; nothing else
but SP and PC changes (40_load_store.md R180 to R183). A pull after a push gives the byte back and restores SP under both stack
orders (10_state.md R41). -/
def Obligations.StackPushesAndPulls : Prop :=
  [Instr.pha, .php, .pla, .plp].map Instr.opcode = [some 0x48, some 0x08, some 0x68, some 0x28] ∧
  (∀ s : State,
    (∃ t, exec .pha s = .next t ∧ Pushed s t [s.a] ∧ t = { s with sp := t.sp, ram := t.ram, pc := s.pc + 1 }) ∧
    (∃ t, exec .php s = .next t ∧ Pushed s t [s.p ||| 0x30] ∧ t = { s with sp := t.sp, ram := t.ram, pc := s.pc + 1 }) ∧
    (∃ t, exec .pla s = .next t ∧ t.a = pulled s 0 ∧ ZN t t.a ∧ KeepsFlags s t [1, 7] ∧
      t = { s with a := t.a, p := t.p, sp := s.sp + 1, pc := s.pc + 1 }) ∧
    exec .plp s = .next { s with p := pulled s 0 ||| 0x20, sp := s.sp + 1, pc := s.pc + 1 }) ∧
  ∀ (s : State) (d : Byte), Memory.wf s.ram = true → (s.push d).pull.1 = d ∧ (s.push d).pull.2.sp = s.sp

/-! ## Arithmetic and logic -/

/-- ADC: A + M + C modulo 256, C when the sum exceeds 255, V from the signs, Z and N of the result, whatever D holds
(41_arith_logic.md R205). -/
def Obligations.AdcAddsWithCarry : Prop :=
  FullEncoding .adc [0x69, 0x65, 0x75, 0x6D, 0x7D, 0x79, 0x61, 0x71] ∧
  ∀ (m : Src) (s : State), ∃ t, exec (.adc m) s = .next t ∧
    t.a = BitVec.ofNat 8 (s.a.toNat + (s.operand m).1.toNat + s.flagC.toNat) ∧
    t.flagC = decide (255 < s.a.toNat + (s.operand m).1.toNat + s.flagC.toNat) ∧
    t.flagV = ((s.a ^^^ t.a) &&& ((s.operand m).1 ^^^ t.a)).getLsbD 7 ∧
    ZN t t.a ∧ t.x = s.x ∧ t.y = s.y ∧
    KeepsFlags s t [0, 1, 6, 7] ∧ ReadFrame s t m ∧ ReadCost s t (.adc m) (s.operand m).2.1

/-- SBC: A - M - (1 - C) modulo 256, C when there is no borrow, V from the signs, Z and N of the result, whatever D holds
(41_arith_logic.md R206). -/
def Obligations.SbcSubtractsWithBorrow : Prop :=
  FullEncoding .sbc [0xE9, 0xE5, 0xF5, 0xED, 0xFD, 0xF9, 0xE1, 0xF1] ∧
  ∀ (m : Src) (s : State), ∃ t, exec (.sbc m) s = .next t ∧
    t.a = BitVec.ofInt 8 (s.a.toNat - (s.operand m).1.toNat - (1 - s.flagC.toNat)) ∧
    t.flagC = decide ((0 : Int) ≤ s.a.toNat - (s.operand m).1.toNat - (1 - s.flagC.toNat)) ∧
    t.flagV = ((s.a ^^^ (s.operand m).1) &&& (s.a ^^^ t.a)).getLsbD 7 ∧
    ZN t t.a ∧ t.x = s.x ∧ t.y = s.y ∧
    KeepsFlags s t [0, 1, 6, 7] ∧ ReadFrame s t m ∧ ReadCost s t (.sbc m) (s.operand m).2.1

/-- V of ADC and SBC is signed overflow: the exact signed result lies outside -128..127 (41_arith_logic.md R201). -/
def Obligations.OverflowIsSigned : Prop :=
  ∀ (m : Src) (s t : State),
    (exec (.adc m) s = .next t →
      t.flagV = decide (s.a.toInt + (s.operand m).1.toInt + s.flagC.toNat < -128 ∨
        127 < s.a.toInt + (s.operand m).1.toInt + s.flagC.toNat)) ∧
    (exec (.sbc m) s = .next t →
      t.flagV = decide (s.a.toInt - (s.operand m).1.toInt - (1 - s.flagC.toNat) < -128 ∨
        127 < s.a.toInt - (s.operand m).1.toInt - (1 - s.flagC.toNat)))

/-- AND, ORA and EOR: the bitwise result in A, Z and N from it (41_arith_logic.md R207, R208, R209). -/
def Obligations.LogicIsBitwise : Prop :=
  FullEncoding .and [0x29, 0x25, 0x35, 0x2D, 0x3D, 0x39, 0x21, 0x31] ∧
  FullEncoding .ora [0x09, 0x05, 0x15, 0x0D, 0x1D, 0x19, 0x01, 0x11] ∧
  FullEncoding .eor [0x49, 0x45, 0x55, 0x4D, 0x5D, 0x59, 0x41, 0x51] ∧
  ∀ (m : Src) (s : State),
    ∀ ir ∈ [(Instr.and m, s.a &&& (s.operand m).1), (Instr.ora m, s.a ||| (s.operand m).1),
        (Instr.eor m, s.a ^^^ (s.operand m).1)],
      ∃ t, exec ir.1 s = .next t ∧ t.a = ir.2 ∧ ZN t t.a ∧ t.x = s.x ∧ t.y = s.y ∧
        KeepsFlags s t [1, 7] ∧ ReadFrame s t m ∧ ReadCost s t ir.1 (s.operand m).2.1

/-- CMP, CPX and CPY: C when the register is at least the operand (unsigned), Z and N of their difference; no register changes
(41_arith_logic.md R210, R211, R212). -/
def Obligations.ComparesSetFlags : Prop :=
  FullEncoding .cmp [0xC9, 0xC5, 0xD5, 0xCD, 0xDD, 0xD9, 0xC1, 0xD1] ∧
  (∀ b w, [Src.imm b, .mem (.zp b), .mem (.abs w)].map (fun m => (Instr.cpx m).opcode) = [some 0xE0, some 0xE4, some 0xEC]) ∧
  (∀ b w, [Src.imm b, .mem (.zp b), .mem (.abs w)].map (fun m => (Instr.cpy m).opcode) = [some 0xC0, some 0xC4, some 0xCC]) ∧
  ∀ (m : Src) (s : State),
    ∀ ir ∈ [(Instr.cmp m, s.a), (Instr.cpx m, s.x), (Instr.cpy m, s.y)],
      ∃ t, exec ir.1 s = .next t ∧
        t.flagC = decide ((s.operand m).1.toNat ≤ ir.2.toNat) ∧ ZN t (ir.2 - (s.operand m).1) ∧
        t.a = s.a ∧ t.x = s.x ∧ t.y = s.y ∧
        KeepsFlags s t [0, 1, 7] ∧ ReadFrame s t m ∧ ReadCost s t ir.1 (s.operand m).2.1

/-- BIT: Z from A & M, N and V from bits 7 and 6 of M; A is not written (41_arith_logic.md R213). -/
def Obligations.BitTestsMemory : Prop :=
  (∀ b w, [Addr.zp b, .abs w].map (fun m => (Instr.bit m).opcode) = [some 0x24, some 0x2C]) ∧
  ∀ (m : Addr) (s : State), ∃ t, exec (.bit m) s = .next t ∧
    t.flagZ = decide (s.a &&& (s.operand (.mem m)).1 = 0) ∧
    t.flagN = (s.operand (.mem m)).1.getLsbD 7 ∧ t.flagV = (s.operand (.mem m)).1.getLsbD 6 ∧
    t.a = s.a ∧ t.x = s.x ∧ t.y = s.y ∧
    KeepsFlags s t [1, 6, 7] ∧ ReadFrame s t (.mem m) ∧ ReadCost s t (.bit m) (s.operand (.mem m)).2.1

/-- INC and DEC: one read at the effective address, one write of the byte plus or minus 1, Z and N of it; C, V and every register
stay (41_arith_logic.md R220, R221, R240). With the default CYCLES a well-formed one pays no page cross. -/
def Obligations.IncDecStepMemory : Prop :=
  RmwEncoding .inc [0xE6, 0xF6, 0xEE, 0xFE] ∧ RmwEncoding .dec [0xC6, 0xD6, 0xCE, 0xDE] ∧
  ∀ (m : Addr) (s : State),
    ∀ ir ∈ [(Instr.inc m, (s.cpuRead (s.resolve m).1).1 + 1), (Instr.dec m, (s.cpuRead (s.resolve m).1).1 - 1)],
      ∃ t, exec ir.1 s = .next t ∧
        t = { (s.cpuRead (s.resolve m).1).2.cpuWrite (s.resolve m).1 ir.2 with p := t.p, pc := t.pc, cost := t.cost } ∧
        ZN t ir.2 ∧ KeepsFlags s t [1, 7] ∧ t.a = s.a ∧ t.x = s.x ∧ t.y = s.y ∧ t.sp = s.sp ∧
        StoredAt s t (s.resolve m).1 ir.2 ∧ StoreFrame s t (1 + m.size) ∧
        (s.params.cycleOverrides = [] → ir.1.wellFormed = true →
          t.cost = ((s.cpuRead (s.resolve m).1).2.cpuWrite (s.resolve m).1 ir.2).cost)

/-- INX, INY, DEX and DEY: the register plus or minus 1 modulo 256, Z and N of it, no other flag
(41_arith_logic.md R222 to R225). -/
def Obligations.IncDecStepIndex : Prop :=
  [Instr.inx, .iny, .dex, .dey].map Instr.opcode = [some 0xE8, some 0xC8, some 0xCA, some 0x88] ∧
  ∀ s : State,
    (∃ t, exec .inx s = .next t ∧ t.x.toNat = (s.x.toNat + 1) % 256 ∧ ZN t t.x ∧ KeepsFlags s t [1, 7] ∧
      t = { s with x := t.x, p := t.p, pc := s.pc + 1 }) ∧
    (∃ t, exec .iny s = .next t ∧ t.y.toNat = (s.y.toNat + 1) % 256 ∧ ZN t t.y ∧ KeepsFlags s t [1, 7] ∧
      t = { s with y := t.y, p := t.p, pc := s.pc + 1 }) ∧
    (∃ t, exec .dex s = .next t ∧ t.x.toNat = (s.x.toNat + 255) % 256 ∧ ZN t t.x ∧ KeepsFlags s t [1, 7] ∧
      t = { s with x := t.x, p := t.p, pc := s.pc + 1 }) ∧
    (∃ t, exec .dey s = .next t ∧ t.y.toNat = (s.y.toNat + 255) % 256 ∧ ZN t t.y ∧ KeepsFlags s t [1, 7] ∧
      t = { s with y := t.y, p := t.p, pc := s.pc + 1 })

/-- ASL, LSR, ROL and ROR on the accumulator and on memory: the byte shifted with 0 or the old C shifted in, C the bit shifted
out, Z and N of the result; on memory one read and one write at the effective address
(41_arith_logic.md R230 to R233, R240). -/
def Obligations.ShiftsMoveBits : Prop :=
  [Instr.asl .acc, .lsr .acc, .rol .acc, .ror .acc].map Instr.opcode = [some 0x0A, some 0x4A, some 0x2A, some 0x6A] ∧
  RmwEncoding (fun m => .asl (.mem m)) [0x06, 0x16, 0x0E, 0x1E] ∧ RmwEncoding (fun m => .lsr (.mem m)) [0x46, 0x56, 0x4E, 0x5E] ∧
  RmwEncoding (fun m => .rol (.mem m)) [0x26, 0x36, 0x2E, 0x3E] ∧ RmwEncoding (fun m => .ror (.mem m)) [0x66, 0x76, 0x6E, 0x7E] ∧
  ∀ s : State, ∀ f ∈ [(Instr.asl, fun d : Byte => (d <<< 1, d.getLsbD 7)),
      (Instr.lsr, fun d : Byte => (d >>> 1, d.getLsbD 0)),
      (Instr.rol, fun d : Byte => (d <<< 1 ||| (if s.flagC then 0x01 else 0x00), d.getLsbD 7)),
      (Instr.ror, fun d : Byte => ((if s.flagC then 0x80 else 0x00) ||| d >>> 1, d.getLsbD 0))],
    (∃ t, exec (f.1 .acc) s = .next t ∧
      t.a = (f.2 s.a).1 ∧ t.flagC = (f.2 s.a).2 ∧ ZN t t.a ∧ KeepsFlags s t [0, 1, 7] ∧
      t = { s with a := t.a, p := t.p, pc := s.pc + 1 }) ∧
    (∀ m : Addr, ∃ t, exec (f.1 (.mem m)) s = .next t ∧
      t = { (s.cpuRead (s.resolve m).1).2.cpuWrite (s.resolve m).1 (f.2 (s.cpuRead (s.resolve m).1).1).1 with
        p := t.p, pc := t.pc, cost := t.cost } ∧
      t.flagC = (f.2 (s.cpuRead (s.resolve m).1).1).2 ∧ ZN t (f.2 (s.cpuRead (s.resolve m).1).1).1 ∧
      KeepsFlags s t [0, 1, 7] ∧ t.a = s.a ∧ t.x = s.x ∧ t.y = s.y ∧ t.sp = s.sp ∧
      StoredAt s t (s.resolve m).1 (f.2 (s.cpuRead (s.resolve m).1).1).1 ∧ StoreFrame s t (1 + m.size) ∧
      (s.params.cycleOverrides = [] → m.isRmw = true →
        t.cost = ((s.cpuRead (s.resolve m).1).2.cpuWrite (s.resolve m).1 (f.2 (s.cpuRead (s.resolve m).1).1).1).cost))

/-! ## Control -/

/-- JMP absolute goes to its operand; JMP indirect reads the low byte at the pointer and then the high byte in the same page,
wrapping at its end, and goes there; nothing but PC and the reads' side effects changes (42_control.md R260, 30_encoding.md R125). -/
def Obligations.JmpGoesToTarget : Prop :=
  (∀ w, [Instr.jmp (.abs w), .jmp (.ind w)].map Instr.opcode = [some 0x4C, some 0x6C]) ∧
  ∀ (w : Word) (s : State),
    exec (.jmp (.abs w)) s = .next { s with pc := w } ∧
    (∃ t, exec (.jmp (.ind w)) s = .next t ∧
      t = { ((s.cpuRead w).2.cpuRead (word (hiByte w) (loByte w + 1))).2 with
        pc := word ((s.cpuRead w).2.cpuRead (word (hiByte w) (loByte w + 1))).1 (s.cpuRead w).1 } ∧
      SameRegs s t ∧ SameMemory s t ∧ t.cost = s.cost)

/-- JSR pushes the address of its last byte, high byte first, and jumps; RTS pulls an address, low byte first, and adds 1; and an
RTS right after a JSR returns to the byte after the JSR with SP restored (42_control.md R261, R262). -/
def Obligations.JsrRtsReturn : Prop :=
  (∀ w, (Instr.jsr w).opcode = some 0x20) ∧ Instr.rts.opcode = some 0x60 ∧
  (∀ (w : Word) (s : State), ∃ t, exec (.jsr w) s = .next t ∧ t.pc = w ∧
    Pushed s t [hiByte (s.pc + 2), loByte (s.pc + 2)] ∧ t = { s with pc := w, sp := t.sp, ram := t.ram }) ∧
  (∀ s : State, exec .rts s = .next { s with pc := word (pulled s 1) (pulled s 0) + 1, sp := s.sp + 2 }) ∧
  ∀ (w : Word) (s t : State), Memory.wf s.ram = true → exec (.jsr w) s = .next t →
    exec .rts t = .next { t with pc := s.pc + 3, sp := s.sp }

/-- The eight branches: one flag each; taken, PC is the next instruction's address plus the signed offset modulo 65536, for 1 more
cycle than the base count, or 2 when that is another page; not taken, PC is the next instruction's address; nothing else changes;
the base count is 2 by default
(42_control.md R265 to R273, 30_encoding.md R124, 70_reset_and_hazards.md R772). -/
def Obligations.BranchesTestOneFlag : Prop :=
  ∀ (b : Byte) (s : State),
    [Instr.bcc b, .bcs b, .beq b, .bmi b, .bne b, .bpl b, .bvc b, .bvs b].map Instr.opcode =
      [some 0x90, some 0xB0, some 0xF0, some 0x30, some 0xD0, some 0x10, some 0x50, some 0x70] ∧
    ∀ ic ∈ [(Instr.bcc b, s.flagC = false), (Instr.bcs b, s.flagC = true), (Instr.beq b, s.flagZ = true),
        (Instr.bmi b, s.flagN = true), (Instr.bne b, s.flagZ = false), (Instr.bpl b, s.flagN = false),
        (Instr.bvc b, s.flagV = false), (Instr.bvs b, s.flagV = true)],
      ∀ target : Word, target = BitVec.ofInt 16 ((s.pc + 2).toNat + b.toInt) →
        (s.params.cycleOverrides = [] → (instrCycles s.params ic.1).base = 2) ∧
        (ic.2 → exec ic.1 s = .next { s with
          pc := target
          cost := s.cost + if target.toNat / 256 = (s.pc + 2).toNat / 256 then 1 else 2 }) ∧
        (¬ ic.2 → exec ic.1 s = .next { s with pc := s.pc + 2 })

/-- CLC, SEC, CLI, SEI, CLD, SED and CLV write one flag each and nothing else but PC; NOP writes nothing but PC and takes 2 cycles
by default (42_control.md R290 to R296, R300). -/
def Obligations.FlagInstrsWriteOneFlag : Prop :=
  [Instr.clc, .sec, .cli, .sei, .cld, .sed, .clv, .nop].map Instr.opcode =
    [some 0x18, some 0x38, some 0x58, some 0x78, some 0xD8, some 0xF8, some 0xB8, some 0xEA] ∧
  (∀ s : State, ∀ f ∈ [(Instr.clc, 0, false), (Instr.sec, 0, true), (Instr.cli, 2, false), (Instr.sei, 2, true),
      (Instr.cld, 3, false), (Instr.sed, 3, true), (Instr.clv, 6, false)],
    ∃ t, exec f.1 s = .next t ∧ t.p.getLsbD f.2.1 = f.2.2 ∧ KeepsFlags s t [f.2.1] ∧
      t = { s with p := t.p, pc := s.pc + 1 }) ∧
  (∀ s : State, exec .nop s = .next { s with pc := s.pc + 1 }) ∧
  ∀ pr : Params, pr.cycleOverrides = [] → (instrCycles pr .nop).base = 2

/-! ## Operands, timing -/

/-- The effective address, the page-cross flag and the length of every mode that has an effective address or a target: the eight
modes of memory operands, where computing the address changes nothing, and the relative and indirect modes
(30_encoding.md R118 to R127). An instruction in a memory mode is `1 + size` bytes long. -/
def Obligations.AddressingModesResolve : Prop :=
  ∀ (s : State) (b : Byte) (w : Word),
    (∀ m, (s.resolve m).2.2 = s) ∧
    ((s.resolve (.zp b)).1.toNat = b.toNat ∧ (s.resolve (.zp b)).2.1 = false ∧ 1 + (Addr.zp b).size = 2) ∧
    ((s.resolve (.zpx b)).1.toNat = (b.toNat + s.x.toNat) % 256 ∧ (s.resolve (.zpx b)).2.1 = false ∧ 1 + (Addr.zpx b).size = 2) ∧
    ((s.resolve (.zpy b)).1.toNat = (b.toNat + s.y.toNat) % 256 ∧ (s.resolve (.zpy b)).2.1 = false ∧ 1 + (Addr.zpy b).size = 2) ∧
    ((s.resolve (.abs w)).1 = w ∧ (s.resolve (.abs w)).2.1 = false ∧ 1 + (Addr.abs w).size = 3) ∧
    ((s.resolve (.absx w)).1.toNat = (w.toNat + s.x.toNat) % 65536 ∧
      (s.resolve (.absx w)).2.1 = decide ((w.toNat + s.x.toNat) % 65536 / 256 ≠ w.toNat / 256) ∧ 1 + (Addr.absx w).size = 3) ∧
    ((s.resolve (.absy w)).1.toNat = (w.toNat + s.y.toNat) % 65536 ∧
      (s.resolve (.absy w)).2.1 = decide ((w.toNat + s.y.toNat) % 65536 / 256 ≠ w.toNat / 256) ∧ 1 + (Addr.absy w).size = 3) ∧
    ((s.resolve (.indx b)).1.toNat = 256 * (Memory.read s.ram ((b.toNat + s.x.toNat + 1) % 256)).toNat +
        (Memory.read s.ram ((b.toNat + s.x.toNat) % 256)).toNat ∧
      (s.resolve (.indx b)).2.1 = false ∧ 1 + (Addr.indx b).size = 2) ∧
    (∀ base : Nat, base = 256 * (Memory.read s.ram ((b.toNat + 1) % 256)).toNat + (Memory.read s.ram b.toNat).toNat →
      (s.resolve (.indy b)).1.toNat = (base + s.y.toNat) % 65536 ∧
      (s.resolve (.indy b)).2.1 = decide ((base + s.y.toNat) % 65536 / 256 ≠ base / 256) ∧ 1 + (Addr.indy b).size = 2) ∧
    (s.branchTarget b = BitVec.ofInt 16 ((s.pc + 2).toNat + b.toInt) ∧
      (s.branching b true).cost =
        s.cost + (if (s.branchTarget b).toNat / 256 ≠ (s.pc + 2).toNat / 256 then 2 else 1) ∧ (encode (.bcc b)).length = 2) ∧
    (∀ high : Word, high.toNat = 256 * (w.toNat / 256) + (w.toNat + 1) % 256 →
      s.jumpTarget (.ind w) = (word ((s.cpuRead w).2.cpuRead high).1 (s.cpuRead w).1, ((s.cpuRead w).2.cpuRead high).2) ∧
      (encode (.jmp (.ind w))).length = 3)

/-- The operand is the immediate byte, with no access, or the byte at the effective address, read once; a bus read changes no
register, no memory and no device state but the six PPU fields, the NMI latch, the frame IRQ flag, the controller ports and the
button draws; a read outside 0x2000 to 0x3FFF and 0x4015 to 0x4017 changes nothing (30_encoding.md R114, 20_memory.md R80). -/
def Obligations.OperandIsReadOnce : Prop :=
  ∀ s : State,
    (∀ b, s.operand (.imm b) = (b, false, s)) ∧
    (∀ m, s.operand (.mem m) = ((s.cpuRead (s.resolve m).1).1, (s.resolve m).2.1, (s.cpuRead (s.resolve m).1).2)) ∧
    (∀ a t, t = (s.cpuRead a).2 →
      t = { s with
        nmiPending := t.nmiPending, pads := t.pads, draws := t.draws
        apu := { s.apu with frameIrq := t.apu.frameIrq }
        ppu := { s.ppu with
          vblank := t.ppu.vblank, w := t.ppu.w, ioLatch := t.ppu.ioLatch, readBuf := t.ppu.readBuf, v := t.ppu.v
          nmiOut := t.ppu.nmiOut } } ∧
      (¬ (0x2000 ≤ a.toNat ∧ a.toNat < 0x4000) → ¬ (0x4015 ≤ a.toNat ∧ a.toNat ≤ 0x4017) → t = s))

/-- With the default CYCLES the base count and the page-cross mark of every well-formed instruction are those of the table, by
mnemonic and mode (70_reset_and_hazards.md R770, R771). -/
def Obligations.CyclesMatchTable : Prop :=
  ∀ (pr : Params) (i : Instr), pr.cycleOverrides = [] → i.wellFormed = true → instrCycles pr i = tableRow i

/-! ## Bus and cartridge -/

/-- Every mirror of a RAM byte or of a PPU register is the same byte or register, read and written with the same side effects
(61_bus_cartridge.md R462); and in RAM a read after a write gives the byte and other bytes stay. -/
def Obligations.MirrorsAgree : Prop :=
  ∀ (s : State) (a b : Word) (d : Byte),
    (a.toNat < 0x2000 → b.toNat < 0x2000 → a.toNat % 0x800 = b.toNat % 0x800 →
      s.cpuRead a = s.cpuRead b ∧ s.cpuWrite a d = s.cpuWrite b d) ∧
    (0x2000 ≤ a.toNat → a.toNat < 0x4000 → 0x2000 ≤ b.toNat → b.toNat < 0x4000 → a.toNat % 8 = b.toNat % 8 →
      s.cpuRead a = s.cpuRead b ∧ s.cpuWrite a d = s.cpuWrite b d) ∧
    (Memory.wf s.ram = true → a.toNat < 0x2000 → b.toNat < 0x2000 →
      ((s.cpuWrite a d).cpuRead b).1 = if a.toNat % 0x800 = b.toNat % 0x800 then d else (s.cpuRead b).1)

/-- Open bus with the default parameter is the address's high byte; an absent cartridge reads ABSENT_VALUE and ignores writes;
none of these accesses changes anything (20_memory.md R79, 61_bus_cartridge.md R460, R461, R485, R494). -/
def Obligations.OpenBusAndAbsent : Prop :=
  ∀ (s : State) (a : Word) (d : Byte), s.params.openBusOverrides = [] →
    ((0x4000 ≤ a.toNat ∧ a.toNat ≤ 0x4014) ∨ (0x4018 ≤ a.toNat ∧ a.toNat ≤ 0x401F) ∨
        (s.cart.present = true ∧ 0x4020 ≤ a.toNat ∧ a.toNat < 0x6000) →
      (s.cpuRead a).1.toNat = a.toNat / 256 ∧ (s.cpuRead a).2 = s) ∧
    (s.cart.present = false → 0x4020 ≤ a.toNat → s.cpuRead a = (s.params.absentValue, s) ∧ s.cpuWrite a d = s) ∧
    ((0x4018 ≤ a.toNat ∧ a.toNat < 0x6000) → s.cpuWrite a d = s)

/-- No step changes ROM: PRG-ROM, the header's fields and the mapper stay, CHR-ROM stays unless the CHR memory is RAM; nor the
parameters, the scheduler's state or the refusal mark (61_bus_cartridge.md R484, R498). -/
def Obligations.StepKeepsRom : Prop :=
  ∀ s t : State, step s = .next t →
    t.cart.prgRom = s.cart.prgRom ∧ t.cart.present = s.cart.present ∧ t.cart.nPrg = s.cart.nPrg ∧
    t.cart.nChr4 = s.cart.nChr4 ∧ t.cart.chrIsRam = s.cart.chrIsRam ∧ t.cart.mirroring = s.cart.mirroring ∧
    t.cart.mapperKind = s.cart.mapperKind ∧ t.cart.mapper = s.cart.mapper ∧ t.cart.battery = s.cart.battery ∧
    (s.cart.chrIsRam = false → t.cart.chr = s.cart.chr) ∧
    t.params = s.params ∧ t.sched = s.sched ∧ t.refusal = s.refusal

/-- Mapper 0: 0x8000 to 0xBFFF is the first PRG bank and 0xC000 to 0xFFFF the last; a write to either is ignored; a one-bank image
is mirrored (61_bus_cartridge.md R490). -/
def Obligations.NromMapsFirstAndLastBank : Prop :=
  ∀ (s : State) (a : Word) (d : Byte), s.cart.present = true → s.cart.mapperKind = .nrom → 0x8000 ≤ a.toNat →
    s.cpuWrite a d = s ∧
    (a.toNat < 0xC000 → s.cpuRead a = (Memory.read s.cart.prgRom (a.toNat - 0x8000), s)) ∧
    (0xC000 ≤ a.toNat → s.cpuRead a = (Memory.read s.cart.prgRom (16384 * (s.cart.nPrg - 1) + (a.toNat - 0xC000)), s)) ∧
    (s.cart.nPrg = 1 → a.toNat < 0xC000 → s.cpuRead a = s.cpuRead (a + 0x4000))

/-- MMC1: five writes with bit 7 clear, the first after a completed or reset sequence, load their bits 0, the first the least
significant, into the register the fifth write's address selects, and change nothing else of the machine; a write with bit 7 set
clears the sequence and sets control bits 3:2 (61_bus_cartridge.md R500). -/
def Obligations.Mmc1FiveWritesLoadRegister : Prop :=
  ∀ (s : State) (a1 a2 a3 a4 a5 : Word) (d1 d2 d3 d4 d5 : Byte),
    s.cart.present = true → s.cart.mapperKind = .mmc1 →
    (∀ a ∈ [a1, a2, a3, a4, a5], 0x8000 ≤ a.toNat) →
    (s.cart.mmc1.count = 0 → (∀ d ∈ [d1, d2, d3, d4, d5], d.getLsbD 7 = false) →
      ∀ v : BitVec 5, (∀ k, k < 5 → v.getLsbD k = ([d1, d2, d3, d4, d5].getD k 0).getLsbD 0) →
      ((((s.cpuWrite a1 d1).cpuWrite a2 d2).cpuWrite a3 d3).cpuWrite a4 d4).cpuWrite a5 d5 =
        { s with cart := { s.cart with mmc1 :=
          if a5.toNat < 0xA000 then { s.cart.mmc1 with shift := 0, count := 0, control := v }
          else if a5.toNat < 0xC000 then { s.cart.mmc1 with shift := 0, count := 0, chr0 := v }
          else if a5.toNat < 0xE000 then { s.cart.mmc1 with shift := 0, count := 0, chr1 := v }
          else { s.cart.mmc1 with shift := 0, count := 0, prg := v } } }) ∧
    (d1.getLsbD 7 = true →
      s.cpuWrite a1 d1 = { s with cart := { s.cart with mmc1 :=
        { s.cart.mmc1 with shift := 0, count := 0, control := s.cart.mmc1.control ||| 0x0C } } })

/-- The controller ports. After a strobe of 1 and then 0, whatever reads of the other port came between, the first eight reads of
port 1 (0x4016) or port 2 (0x4017) give the buttons latched by the strobe, A first, and every later read gives 1. While the strobe
is 1, every read of a port takes its buttons anew and gives A. Bits 7:5 are open bus and bits 4:1 are 0 in every read. The buttons
are a free value of the host, so this holds for every value (61_bus_cartridge.md R510, R511, log 5). -/
def Obligations.ControllerReadsGiveButtons : Prop :=
  ∀ (s : State) (on off : Byte), on.getLsbD 0 = true → off.getLsbD 0 = false →
    ∀ pq ∈ [((0x4016 : Word), 0, (0x4017 : Word)), (0x4017, 1, 0x4016)],
      (∀ m n,
        ((padReads pq.1 n (padReads pq.2.2 m ((s.cpuWrite 0x4016 on).cpuWrite 0x4016 off))).cpuRead pq.1).1 =
          (openBus s.params pq.1 &&& 0xE0) |||
            (if n < 8 then (if (Config.buttonDraw s.draws pq.2.1).getLsbD n then 0x01 else 0x00) else 0x01)) ∧
      (s.cpuWrite 0x4016 on).pads.strobe = true ∧
      (s.pads.strobe = true → ∀ n,
        (padReads pq.1 n s).draws = s.draws + n ∧
        ((padReads pq.1 n s).cpuRead pq.1).1 =
          (openBus s.params pq.1 &&& 0xE0) |||
            (if (Config.buttonDraw (s.draws + n) pq.2.1).getLsbD 0 then 0x01 else 0x00))

/-- OAM DMA from a page of plain memory: OAM byte `i` (or `OAMADDR + i` modulo 256, by the parameter) is byte `i` of the page; the
instruction costs 513 cycles more, or 514 when the count at its end is odd; nothing else changes (61_bus_cartridge.md R515,
R516). That the field `cost` holds CYCLES(op) when the DMA reads it is the model's choice (log 6). -/
def Obligations.OamDmaCopiesPage : Prop :=
  ∀ (s : State) (d : Byte), Memory.wf s.ppu.oam = true → d.toNat < 0x20 ∨ (s.cart.present = true ∧ 0x60 ≤ d.toNat) →
    ∃ t, s.cpuWrite 0x4014 d = t ∧
      (∀ i : Byte, Memory.read t.ppu.oam
          (match s.params.oamDmaTarget with | .doc => i | .oamaddr => s.ppu.oamaddr + i).toNat =
        (s.cpuRead (word d i)).1) ∧
      t = { s with
        cost := s.cost + 513 + (if (s.cycles + s.cost) % 2 = 1 then 1 else 0)
        ppu := { s.ppu with oam := t.ppu.oam } }

/-- A loaded file. It is malformed, and the cartridge absent, with the first of three reasons that applies: a bad signature (or a
file shorter than a header), no PRG bank, data cut short. Otherwise PRG-ROM is the file's after the header and the trainer, CHR-ROM
the file's after it (CHR-RAM, a draw, when there is none), PRG-RAM a draw with the trainer at 0x1000, the mirroring is the file's
with four-screen first, so are the battery flag and the mapper, the MMC1 has its power-on values; mapper 1 gets the MMC1, any other
the fixed mapping, and one that is neither 0 nor 1 is reported (61_bus_cartridge.md R481, R482, R483, R484, R492). That the
four-screen RAM is a draw at a load and that the trainer's bytes are kept beside PRG-RAM are the model's choices (log 12). -/
def Obligations.LoadCartridgeReadsFile : Prop :=
  ∀ (bytes : List Byte) (draws : CartDraws) (f6 f7 : Byte) (nPrg nChr off : Nat) (mapper : BitVec 8),
    nPrg = (bytes.getD 4 0).toNat → nChr = (bytes.getD 5 0).toNat → f6 = bytes.getD 6 0 → f7 = bytes.getD 7 0 →
    off = 16 + (if f6.getLsbD 2 then 512 else 0) → mapper.toNat = 16 * (f7.toNat / 16) + f6.toNat / 16 →
    if bytes.length < 16 ∨ bytes.take 4 ≠ [0x4E, 0x45, 0x53, 0x1A] then
      loadCart bytes draws = (.malformed .badSignature, Cart.absent)
    else if nPrg = 0 then loadCart bytes draws = (.malformed .noPrg, Cart.absent)
    else if bytes.length < off + 16384 * nPrg + 8192 * nChr then loadCart bytes draws = (.malformed .truncated, Cart.absent)
    else
      ∃ c, loadCart bytes draws = (if mapper.toNat ≤ 1 then .ok else .unsupportedMapper mapper, c) ∧
        c.present = true ∧ c.nPrg = nPrg ∧ c.nChr4 = (if nChr = 0 then 2 else 2 * nChr) ∧
        (∀ i, i < 16384 * nPrg → Memory.read c.prgRom i = bytes.getD (off + i) 0) ∧
        (∀ i, 0 < nChr → i < 8192 * nChr → Memory.read c.chr i = bytes.getD (off + 16384 * nPrg + i) 0) ∧
        (nChr = 0 → c.chr = draws.chrRam) ∧ c.chrIsRam = decide (nChr = 0) ∧
        (Memory.wf draws.prgRam = true → ∀ i, Memory.read c.prgRam i =
          if f6.getLsbD 2 = true ∧ 0x1000 ≤ i ∧ i < 0x1200 then bytes.getD (16 + (i - 0x1000)) 0
          else Memory.read draws.prgRam i) ∧
        c.vramExtra = draws.vramExtra ∧ c.trainer = (if f6.getLsbD 2 then (bytes.drop 16).take 512 else []) ∧
        c.mirroring = (if f6.getLsbD 3 then .fourScreen else if f6.getLsbD 0 then .vertical else .horizontal) ∧
        c.battery = f6.getLsbD 1 ∧ c.mapper = mapper ∧ c.mapperKind = (if mapper = 1 then .mmc1 else .nrom) ∧
        c.mmc1 = Mmc1.powerOn

/-! ## Picture unit -/

/-- Reading PPUSTATUS gives the three flags and the latch's low bits as they were, then clears vblank and the write toggle and
lowers the NMI output; nothing else changes, and a second read gives vblank 0 (62_ppu.md R537, R541, R533). -/
def Obligations.StatusReadClearsVblank : Prop :=
  ∀ (s : State) (d : Byte) (t : State), s.cpuRead 0x2002 = (d, t) →
    d.getLsbD 7 = s.ppu.vblank ∧ d.getLsbD 6 = s.ppu.sprite0Hit ∧ d.getLsbD 5 = s.ppu.spriteOverflow ∧
    (∀ j, j < 5 → d.getLsbD j = s.ppu.ioLatch.getLsbD j) ∧
    t = { s with ppu := { s.ppu with vblank := false, w := false, nmiOut := false, ioLatch := d } } ∧
    (t.cpuRead 0x2002).1.getLsbD 7 = false

/-- VRAM written through PPUADDR and PPUDATA is read back through them: after the address of a nametable byte is written high byte
first and a byte is written, the same address again and two reads give that byte on the second read, because a read is buffered
by one (62_ppu.md R545, R546, R547, R552). The address and the one after the first read both lie in 0x2000 to 0x3EFF. -/
def Obligations.VramReadsBack : Prop :=
  ∀ (s t : State) (hi lo d : Byte),
    s.ppu.w = false → Memory.wf s.ppu.ciram = true → Memory.wf s.cart.vramExtra = true →
    0x2000 ≤ 256 * (hi.toNat % 0x40) + lo.toNat → 256 * (hi.toNat % 0x40) + lo.toNat + 32 < 0x3F00 →
    t = ((((s.cpuWrite 0x2006 hi).cpuWrite 0x2006 lo).cpuWrite 0x2007 d).cpuWrite 0x2006 hi).cpuWrite 0x2006 lo →
    t.ppu.v.toNat = 256 * (hi.toNat % 0x40) + lo.toNat ∧
    ((t.cpuRead 0x2007).2.cpuRead 0x2007).1 = d

/-- The scroll increments on the 15-bit address: IncX wraps coarse X at 32 and toggles bit 10; IncY carries fine Y into coarse Y,
which wraps from 29 toggling bit 11, and from 31 without (62_ppu.md R583, R584). -/
def Obligations.ScrollIncrementsWrap : Prop :=
  ∀ v : BitVec 15,
    incX v = (if v &&& 0x1F = 0x1F then (v - 0x1F) ^^^ 0x400 else v + 1) ∧
    incY v =
      (if v.toNat / 4096 < 7 then v + 0x1000
      else if v.toNat / 32 % 32 = 29 then (v - 0x73A0) ^^^ 0x800
      else if v.toNat / 32 % 32 = 31 then v - 0x73E0
      else v - 0x7000 + 0x20)

/-- One dot: the position moves on by one modulo 89342, or from the last but one dot of an odd rendered frame to the start; vblank
rises at scanline 241 dot 1 and falls at 261 dot 1; an NMI becomes pending when vblank and the enable become 1 together
(62_ppu.md R560, R565, R567, R568). In a state whose NMI output is up to date (`NmiOutputOk`). -/
def Obligations.DotAdvancesRaster : Prop :=
  ∀ s : State, s.ppu.scanline < 262 → s.ppu.dot < 341 → Safety.NmiOutputOk s →
    (if s.ppu.scanline = 261 ∧ s.ppu.dot = 339 ∧ s.ppu.oddFrame = true ∧ s.ppu.rendering = true ∧ s.params.oddFrameSkip = true then
      dotPos s.ppuTick.ppu = 0 ∧ s.ppuTick.ppu.oddFrame = false
    else
      dotPos s.ppuTick.ppu = (dotPos s.ppu + 1) % 89342 ∧
      s.ppuTick.ppu.oddFrame = (if dotPos s.ppu = 89341 then !s.ppu.oddFrame else s.ppu.oddFrame)) ∧
    s.ppuTick.ppu.vblank =
      (if s.ppu.scanline = 241 ∧ s.ppu.dot = 1 then true
      else if s.ppu.scanline = 261 ∧ s.ppu.dot = 1 then false else s.ppu.vblank) ∧
    s.ppuTick.nmiPending = (s.nmiPending ||
      (decide (s.ppu.scanline = 241 ∧ s.ppu.dot = 1) && !s.ppu.vblank && s.ppu.ctrl.getLsbD 7))

/-- Writing PPUCTRL: the byte is kept, its low bits go to `t`, and an NMI becomes pending when the enable rises while vblank is 1
(62_ppu.md R535, R567). In a state whose NMI output is up to date (`NmiOutputOk`). -/
def Obligations.CtrlWriteRaisesNmi : Prop :=
  ∀ (s : State) (d : Byte), Safety.NmiOutputOk s →
    (s.cpuWrite 0x2000 d).nmiPending =
      (s.nmiPending || (s.ppu.vblank && d.getLsbD 7 && !s.ppu.ctrl.getLsbD 7)) ∧
    ∃ u : Ppu, (s.cpuWrite 0x2000 d).ppu = u ∧ u.ctrl = d ∧ Safety.NmiOutputOk (s.cpuWrite 0x2000 d) ∧
      (∀ j, j < 15 → u.t.getLsbD j =
        if j = 10 then d.getLsbD 0 else if j = 11 then d.getLsbD 1 else s.ppu.t.getLsbD j) ∧
      u = { s.ppu with ctrl := d, ioLatch := d, t := u.t, nmiOut := u.nmiOut }

/-- The first vertical blank: from dot 0 of scanline 0, whatever the draw of vblank, the flag is kept for 82182
dots and set by the 82183rd (70_reset_and_hazards.md R761). -/
def Obligations.FirstVblankDot : Prop :=
  ∀ s : State, s.ppu.scanline = 0 → s.ppu.dot = 0 →
    (∀ n, n ≤ 82182 → (dots n s).ppu.vblank = s.ppu.vblank) ∧
    (dots 82183 s).ppu.vblank = true ∧ (dots 82183 s).ppu.scanline = 241 ∧ (dots 82183 s).ppu.dot = 2

/-- Nametable mirroring: after a byte is written at one nametable address, another of the same offset reads it when the mirroring
in force serves both from one RAM, and keeps its byte otherwise (61_bus_cartridge.md R487, 62_ppu.md R552). -/
def Obligations.NametableMirrorsShareBytes : Prop :=
  ∀ (s : State) (p q : PpuAddr) (d : Byte), Memory.wf s.ppu.ciram = true → Memory.wf s.cart.vramExtra = true →
    0x2000 ≤ p.toNat → p.toNat < 0x3F00 → 0x2000 ≤ q.toNat → q.toNat < 0x3F00 →
    (s.ppuBusWrite p d).ppu.busRead (s.ppuBusWrite p d).cart s.params q =
      if p.toNat % 1024 = q.toNat % 1024 ∧
          ntHalf s.cart.mirrorMode (p.toNat / 1024 % 4) = ntHalf s.cart.mirrorMode (q.toNat / 1024 % 4) then d
      else s.ppu.busRead s.cart s.params q

/-- Sprite evaluation for the line after `p.scanline`: the entries that cover it are taken in index order, at most 8; their four bytes
go to secondary OAM, the rest of it is 0xFF; a ninth sets the overflow flag, which is never cleared here; nothing but secondary
OAM, the flag, the count and the sprite units changes (62_ppu.md R591, R592). -/
def Obligations.SpriteEvaluationTakesEight : Prop :=
  ∀ (p : Ppu) (c : Cart) (pr : Params) (found : List Nat) (q : Ppu),
    found = (List.range 64).filter (fun n => decide ((Memory.read p.oam (4 * n)).toNat ≤ p.scanline ∧
      p.scanline < (Memory.read p.oam (4 * n)).toNat + if p.ctrl.getLsbD 5 then 16 else 8)) →
    q = p.evalSprites c pr →
    q.sprCount = min 8 found.length ∧
    q.spriteOverflow = (p.spriteOverflow || decide (8 < found.length)) ∧
    (∀ i k, i < q.sprCount → k < 4 → Memory.read q.secOam (4 * i + k) = Memory.read p.oam (4 * found.getD i 0 + k)) ∧
    (∀ j, 4 * q.sprCount ≤ j → j < 32 → Memory.read q.secOam j = 0xFF) ∧
    (∀ i, i < q.sprCount → (q.sprites.getD i SpriteUnit.powerOn).zero = decide (found.getD i 0 = 0)) ∧
    q = { p with secOam := q.secOam, spriteOverflow := q.spriteOverflow, sprCount := q.sprCount, sprites := q.sprites }

/-! ## Audio unit -/

/-- Length counters: a write to a channel's length register loads LEN of its bits 7:3 exactly when the channel is enabled, and a
write to 0x4015 empties every channel it disables; the status register shows which are not empty
(63_apu.md R633, R635, R637, R640, R641, R623). -/
def Obligations.LengthCountersLoadAndEmpty : Prop :=
  ∀ (s : State) (d : Byte),
    (s.cpuWrite 0x4003 d).apu.pulse1.len = (if s.apu.pulse1.en then lenTable.getD (d.toNat / 8) 0 else s.apu.pulse1.len) ∧
    (s.cpuWrite 0x4007 d).apu.pulse2.len = (if s.apu.pulse2.en then lenTable.getD (d.toNat / 8) 0 else s.apu.pulse2.len) ∧
    (s.cpuWrite 0x400B d).apu.triangle.len = (if s.apu.triangle.en then lenTable.getD (d.toNat / 8) 0 else s.apu.triangle.len) ∧
    (s.cpuWrite 0x400F d).apu.noise.len = (if s.apu.noise.en then lenTable.getD (d.toNat / 8) 0 else s.apu.noise.len) ∧
    (s.cpuWrite 0x4015 d).apu.pulse1.len = (if d.getLsbD 0 then s.apu.pulse1.len else 0) ∧
    (s.cpuWrite 0x4015 d).apu.pulse2.len = (if d.getLsbD 1 then s.apu.pulse2.len else 0) ∧
    (s.cpuWrite 0x4015 d).apu.triangle.len = (if d.getLsbD 2 then s.apu.triangle.len else 0) ∧
    (s.cpuWrite 0x4015 d).apu.noise.len = (if d.getLsbD 3 then s.apu.noise.len else 0) ∧
    (s.cpuRead 0x4015).1.getLsbD 0 = decide (s.apu.pulse1.len ≠ 0) ∧
    (s.cpuRead 0x4015).1.getLsbD 1 = decide (s.apu.pulse2.len ≠ 0) ∧
    (s.cpuRead 0x4015).1.getLsbD 2 = decide (s.apu.triangle.len ≠ 0) ∧
    (s.cpuRead 0x4015).1.getLsbD 3 = decide (s.apu.noise.len ≠ 0) ∧
    (s.cpuRead 0x4015).1.getLsbD 4 = decide (s.apu.dmc.remaining ≠ 0) ∧
    (s.cpuRead 0x4015).1.getLsbD 6 = s.apu.frameIrq ∧ (s.cpuRead 0x4015).1.getLsbD 7 = s.apu.dmc.irq ∧
    (s.cpuRead 0x4015).2 = { s with apu := { s.apu with frameIrq := false } }

/-- The triangle: while both counters are not 0, one step of the sequence takes period + 1 cycles, and the output runs
15, 14, ..., 0, 0, 1, ..., 15 and round again (63_apu.md R625, R660, R662). -/
def Obligations.TriangleRunsSequence : Prop :=
  ∀ (u : Triangle) (k : Nat), u.len ≠ 0 → u.lin ≠ 0 → u.timer = 0 → u.seq = 0 →
    (Triangle.tick^[k * (u.period.toNat + 1)] u).out =
      [15, 14, 13, 12, 11, 10, 9, 8, 7, 6, 5, 4, 3, 2, 1, 0, 0, 1, 2, 3, 4, 5, 6, 7, 8, 9, 10, 11, 12, 13, 14, 15].getD (k % 32) 0

/-- The frame sequencer: 29830 cycles in 4-step mode, 37282 in 5-step mode; the frame IRQ flag is raised in 4-step mode at cycle
29829 when it is not inhibited, and the sequencer raises it nowhere else (63_apu.md R680, R683). -/
def Obligations.FrameSequencerPeriods : Prop :=
  ∀ u : Apu,
    (u.fcMode = false → u.fcCycle < 29830 → u.sequencerTick.fcCycle = (u.fcCycle + 1) % 29830) ∧
    (u.fcMode = true → u.fcCycle < 37282 → u.sequencerTick.fcCycle = (u.fcCycle + 1) % 37282) ∧
    u.sequencerTick.frameIrq =
      (u.frameIrq || decide (u.fcMode = false ∧ u.fcCycle + 1 = 29829 ∧ u.fcInhibit = false))

/-- A pulse's sweep on a half-frame clock: with the divider at 0, the sweep enabled, a shift that is not 0 and the channel not muted
(a period of at least 8 and a target of at most 0x7FF) the period becomes the exact target, otherwise it stays, so it never wraps;
the target is the period plus or minus the shifted period, one less on pulse 1 when it is negated; the divider is reloaded or
counts down; nothing else of the channel changes (63_apu.md R651). -/
def Obligations.SweepNeverWraps : Prop :=
  ∀ (u v : Pulse) (first : Bool) (period change target : Int),
    period = u.period.toNat → change = (u.period.toNat / 2 ^ u.sweep.shift.toNat : Nat) →
    target = (if u.sweep.neg = false then period + change else if first then period - change - 1 else period - change) →
    v = u.clockSweep first →
    (if u.sweep.div = 0 ∧ u.sweep.en = true ∧ u.sweep.shift ≠ 0 ∧ 8 ≤ period ∧ target ≤ 0x7FF then (v.period.toNat : Int) = target
      else v.period = u.period) ∧
    v.sweep = (if u.sweep.div = 0 ∨ u.sweep.reload = true then { u.sweep with div := u.sweep.per, reload := false }
      else { u.sweep with div := u.sweep.div - 1 }) ∧
    v = { u with period := v.period, sweep := v.sweep }

/-! ## Power-on, reset, scheduler, invariants -/

/-- Power-on: A = X = Y = 0, P = 0x34, SP = 0xFD, PC from the reset vector, no NMI pending, 7 cycles, running, whatever the draws
and whatever ran before (10_state.md R50, 70_reset_and_hazards.md R740). RAM holds its draw, the APU and the scheduler their
power-on values, PRG-ROM stays (R743, R745, 64_scheduler.md R720). That a kept refusal is cleared is the model's choice (log 8). -/
def Obligations.PowerOnValues : Prop :=
  ∀ (s : State) (d : PowerOnDraws), ∃ t, s.powerOn d = t ∧
    t.a = 0 ∧ t.x = 0 ∧ t.y = 0 ∧ t.p = 0x34 ∧ t.sp = 0xFD ∧ t.pc = vectorAt { s with cart := s.cart.powerOn d.cart } 0xFFFC ∧
    t.nmiPending = false ∧ t.cycles = 7 ∧ t.refusal = none ∧ t.ram = d.ram ∧ t.apu = Apu.powerOn ∧
    t.sched = Sched.powerOn ∧ t.cart.prgRom = s.cart.prgRom

/-- Reset of a machine that is on: PC from the reset vector, I set, bit 5 set, SP down by 3, no NMI pending; A, X, Y, the other
flags, RAM and the cartridge stay; 7 cycles are charged, and the PPU has moved 21 dots (10_state.md R51,
70_reset_and_hazards.md R741). -/
def Obligations.ResetSignalValues : Prop :=
  ∀ s : State, s.sched.mode ≠ .stopped → ∃ t, s.resetSignal = .next t ∧
    t.pc = vectorAt s 0xFFFC ∧ t.flagI = true ∧ t.p.getLsbD 5 = true ∧ KeepsFlags s t [2, 5] ∧
    t.sp = s.sp - 3 ∧ t.a = s.a ∧ t.x = s.x ∧ t.y = s.y ∧ t.nmiPending = false ∧ t.ram = s.ram ∧ t.cart = s.cart ∧
    t.pads = s.pads ∧ t.sched = s.sched ∧ t.cycles = s.cycles + 7 ∧
    t.ppu = (dots 21 { s with ppu := s.ppu.resetSignal }).ppu

/-- `run` counts exactly: when it ends without a stop, the cycles gained are the budget and the old carry less the new carry, and
the new carry is not positive. Its loop is R700's: it ends in a result exactly when some number of steps does; with the default
CYCLES it ends within as many steps as the carry has cycles (64_scheduler.md R700). How a loop without an end is written is the
model's choice (log 9). -/
def Obligations.RunCountsCycles : Prop :=
  (∀ (budget : Rat) (s t : State), run budget s = { state := t, stop := none } →
    (t.cycles : Rat) - s.cycles = s.sched.carry + budget - t.sched.carry ∧ t.sched.carry ≤ 0) ∧
  (∀ (s : State) (r : RunResult), runLoop s = some r ↔ ∃ n, runSteps n s = some r) ∧
  (∀ s : State, s.params.cycleOverrides = [] → ∃ r, runSteps s.sched.carry.ceil.toNat s = some r)

/-- The lag bound: after a call of `advance` that leaves the machine running, the accumulator lies in
[-PACE_TOLERANCE, 1 - PACE_TOLERANCE) frame periods; a stall pauses the machine with no frame run; and with a positive
FRAME_PERIOD the loop over frames always ends. This holds with times in every Archimedean ordered field, the reals of R710 and R12
among them; `advance` itself takes the rationals a state holds, which is the model's choice (log 9)
(64_scheduler.md R711, R713). -/
def Obligations.AdvanceLagBound : Prop :=
  (∀ (K : Type) [Field K] [LinearOrder K] [IsStrictOrderedRing K] [Archimedean K] (p : Pacing K) (acc dt : K) (s : State)
      (r : PacedResult K), advanceWith p acc dt s = r → s.sched.mode = .running →
    (acc + dt > p.stallThreshold →
      r.frames.outputs = [] ∧ r.acc = 0 ∧ r.frames.state = { s with sched := { s.sched with mode := .paused } }) ∧
    (0 ≤ dt → 0 < p.framePeriod → 0 ≤ p.paceTolerance → 1 - p.paceTolerance ≤ p.dropThreshold →
      -(p.paceTolerance * p.framePeriod) ≤ acc → r.frames.stop = none → r.frames.state.sched.mode = .running →
      -(p.paceTolerance * p.framePeriod) ≤ r.acc ∧ r.acc < (1 - p.paceTolerance) * p.framePeriod) ∧
    (0 < p.framePeriod → ∀ (outputs : List FrameOutput) (u : State), ∃ q, frameLoop p acc outputs u = some q)) ∧
  ∀ (dt : Rat) (s : State),
    (advance dt s).state.sched.acc = (advanceWith s.pacing s.sched.acc dt s).acc ∧
    (advance dt s).outputs = (advanceWith s.pacing s.sched.acc dt s).frames.outputs ∧
    (advance dt s).stop = (advanceWith s.pacing s.sched.acc dt s).frames.stop

/-- The device catch-up is the loop of R400: whenever some number of cycles ends that loop, the catch-up answers the state it ends
in, with the cost added; and it does end whatever the state when DMC_STALL is below 8 * RATE[rate_idx] (so whenever it is at most
431), or the sample does not loop (60_exceptions.md R400, 63_apu.md R671, R672, R677). The bound on the loop is the model's
(log 7). -/
def Obligations.CatchUpEnds : Prop :=
  ∀ s : State,
    (∀ n u, State.catchUpLoop n 0 s = some u → s.catchUp = .next { u with cycles := u.cycles + u.cost }) ∧
    (s.params.dmcStall < 8 * s.apu.dmc.rate ∨ s.apu.dmc.loop = false →
      ∃ t, s.catchUp = .next t ∧ t.cycles = s.cycles + t.cost ∧ s.cost ≤ t.cost) ∧
    432 ≤ 8 * s.apu.dmc.rate

/-- The invariant holds at State.reset, which is the power-on of the machine without a cartridge with every draw 0. The zero draws
and the absent cartridge are the model's choices (log 1, log 2). -/
def Obligations.ResetMeetsInv : Prop := Safety.Inv State.reset ∧ State.reset = State.reset.powerOn PowerOnDraws.zero

/-- Every step keeps the invariant: the memories stay canonical and within their sizes, PRG-ROM and CHR within the banks of the
cartridge, which has at least one PRG bank and two CHR banks when it is present, the counters stay within their ranges, bit 5 of P
reads 1, the NMI output is vblank AND ctrl[7] (10_state.md R35, R49, 61_bus_cartridge.md R480, R484, 62_ppu.md R560, R567). -/
def Obligations.StepKeepsInv : Prop :=
  ∀ s t : State, Safety.Inv s → step s = .next t → Safety.Inv t
end

