-- ==== Sys2Proof/Laws/State.lean ====
section
/-! SUPPORT. One lemma per field of State and per named update: what the field holds after it. -/

namespace Sys2Proof.Machine

variable (s : State)

/-! `setA` -/

@[simp] theorem State.setA_a (d : Byte) : (s.setA d).a = d := rfl
@[simp] theorem State.setA_x (d : Byte) : (s.setA d).x = s.x := rfl
@[simp] theorem State.setA_y (d : Byte) : (s.setA d).y = s.y := rfl
@[simp] theorem State.setA_sp (d : Byte) : (s.setA d).sp = s.sp := rfl
@[simp] theorem State.setA_p (d : Byte) : (s.setA d).p = s.p := rfl
@[simp] theorem State.setA_pc (d : Byte) : (s.setA d).pc = s.pc := rfl
@[simp] theorem State.setA_cycles (d : Byte) : (s.setA d).cycles = s.cycles := rfl
@[simp] theorem State.setA_nmiPending (d : Byte) : (s.setA d).nmiPending = s.nmiPending := rfl
@[simp] theorem State.setA_refusal (d : Byte) : (s.setA d).refusal = s.refusal := rfl
@[simp] theorem State.setA_ram (d : Byte) : (s.setA d).ram = s.ram := rfl
@[simp] theorem State.setA_cart (d : Byte) : (s.setA d).cart = s.cart := rfl
@[simp] theorem State.setA_pads (d : Byte) : (s.setA d).pads = s.pads := rfl
@[simp] theorem State.setA_ppu (d : Byte) : (s.setA d).ppu = s.ppu := rfl
@[simp] theorem State.setA_apu (d : Byte) : (s.setA d).apu = s.apu := rfl
@[simp] theorem State.setA_sched (d : Byte) : (s.setA d).sched = s.sched := rfl
@[simp] theorem State.setA_params (d : Byte) : (s.setA d).params = s.params := rfl
@[simp] theorem State.setA_cost (d : Byte) : (s.setA d).cost = s.cost := rfl
@[simp] theorem State.setA_draws (d : Byte) : (s.setA d).draws = s.draws := rfl

/-! `setX` -/

@[simp] theorem State.setX_a (d : Byte) : (s.setX d).a = s.a := rfl
@[simp] theorem State.setX_x (d : Byte) : (s.setX d).x = d := rfl
@[simp] theorem State.setX_y (d : Byte) : (s.setX d).y = s.y := rfl
@[simp] theorem State.setX_sp (d : Byte) : (s.setX d).sp = s.sp := rfl
@[simp] theorem State.setX_p (d : Byte) : (s.setX d).p = s.p := rfl
@[simp] theorem State.setX_pc (d : Byte) : (s.setX d).pc = s.pc := rfl
@[simp] theorem State.setX_cycles (d : Byte) : (s.setX d).cycles = s.cycles := rfl
@[simp] theorem State.setX_nmiPending (d : Byte) : (s.setX d).nmiPending = s.nmiPending := rfl
@[simp] theorem State.setX_refusal (d : Byte) : (s.setX d).refusal = s.refusal := rfl
@[simp] theorem State.setX_ram (d : Byte) : (s.setX d).ram = s.ram := rfl
@[simp] theorem State.setX_cart (d : Byte) : (s.setX d).cart = s.cart := rfl
@[simp] theorem State.setX_pads (d : Byte) : (s.setX d).pads = s.pads := rfl
@[simp] theorem State.setX_ppu (d : Byte) : (s.setX d).ppu = s.ppu := rfl
@[simp] theorem State.setX_apu (d : Byte) : (s.setX d).apu = s.apu := rfl
@[simp] theorem State.setX_sched (d : Byte) : (s.setX d).sched = s.sched := rfl
@[simp] theorem State.setX_params (d : Byte) : (s.setX d).params = s.params := rfl
@[simp] theorem State.setX_cost (d : Byte) : (s.setX d).cost = s.cost := rfl
@[simp] theorem State.setX_draws (d : Byte) : (s.setX d).draws = s.draws := rfl

/-! `setY` -/

@[simp] theorem State.setY_a (d : Byte) : (s.setY d).a = s.a := rfl
@[simp] theorem State.setY_x (d : Byte) : (s.setY d).x = s.x := rfl
@[simp] theorem State.setY_y (d : Byte) : (s.setY d).y = d := rfl
@[simp] theorem State.setY_sp (d : Byte) : (s.setY d).sp = s.sp := rfl
@[simp] theorem State.setY_p (d : Byte) : (s.setY d).p = s.p := rfl
@[simp] theorem State.setY_pc (d : Byte) : (s.setY d).pc = s.pc := rfl
@[simp] theorem State.setY_cycles (d : Byte) : (s.setY d).cycles = s.cycles := rfl
@[simp] theorem State.setY_nmiPending (d : Byte) : (s.setY d).nmiPending = s.nmiPending := rfl
@[simp] theorem State.setY_refusal (d : Byte) : (s.setY d).refusal = s.refusal := rfl
@[simp] theorem State.setY_ram (d : Byte) : (s.setY d).ram = s.ram := rfl
@[simp] theorem State.setY_cart (d : Byte) : (s.setY d).cart = s.cart := rfl
@[simp] theorem State.setY_pads (d : Byte) : (s.setY d).pads = s.pads := rfl
@[simp] theorem State.setY_ppu (d : Byte) : (s.setY d).ppu = s.ppu := rfl
@[simp] theorem State.setY_apu (d : Byte) : (s.setY d).apu = s.apu := rfl
@[simp] theorem State.setY_sched (d : Byte) : (s.setY d).sched = s.sched := rfl
@[simp] theorem State.setY_params (d : Byte) : (s.setY d).params = s.params := rfl
@[simp] theorem State.setY_cost (d : Byte) : (s.setY d).cost = s.cost := rfl
@[simp] theorem State.setY_draws (d : Byte) : (s.setY d).draws = s.draws := rfl

/-! `setSp` -/

@[simp] theorem State.setSp_a (d : Byte) : (s.setSp d).a = s.a := rfl
@[simp] theorem State.setSp_x (d : Byte) : (s.setSp d).x = s.x := rfl
@[simp] theorem State.setSp_y (d : Byte) : (s.setSp d).y = s.y := rfl
@[simp] theorem State.setSp_sp (d : Byte) : (s.setSp d).sp = d := rfl
@[simp] theorem State.setSp_p (d : Byte) : (s.setSp d).p = s.p := rfl
@[simp] theorem State.setSp_pc (d : Byte) : (s.setSp d).pc = s.pc := rfl
@[simp] theorem State.setSp_cycles (d : Byte) : (s.setSp d).cycles = s.cycles := rfl
@[simp] theorem State.setSp_nmiPending (d : Byte) : (s.setSp d).nmiPending = s.nmiPending := rfl
@[simp] theorem State.setSp_refusal (d : Byte) : (s.setSp d).refusal = s.refusal := rfl
@[simp] theorem State.setSp_ram (d : Byte) : (s.setSp d).ram = s.ram := rfl
@[simp] theorem State.setSp_cart (d : Byte) : (s.setSp d).cart = s.cart := rfl
@[simp] theorem State.setSp_pads (d : Byte) : (s.setSp d).pads = s.pads := rfl
@[simp] theorem State.setSp_ppu (d : Byte) : (s.setSp d).ppu = s.ppu := rfl
@[simp] theorem State.setSp_apu (d : Byte) : (s.setSp d).apu = s.apu := rfl
@[simp] theorem State.setSp_sched (d : Byte) : (s.setSp d).sched = s.sched := rfl
@[simp] theorem State.setSp_params (d : Byte) : (s.setSp d).params = s.params := rfl
@[simp] theorem State.setSp_cost (d : Byte) : (s.setSp d).cost = s.cost := rfl
@[simp] theorem State.setSp_draws (d : Byte) : (s.setSp d).draws = s.draws := rfl

/-! `setP` -/

@[simp] theorem State.setP_a (d : Byte) : (s.setP d).a = s.a := rfl
@[simp] theorem State.setP_x (d : Byte) : (s.setP d).x = s.x := rfl
@[simp] theorem State.setP_y (d : Byte) : (s.setP d).y = s.y := rfl
@[simp] theorem State.setP_sp (d : Byte) : (s.setP d).sp = s.sp := rfl
@[simp] theorem State.setP_p (d : Byte) : (s.setP d).p = d := rfl
@[simp] theorem State.setP_pc (d : Byte) : (s.setP d).pc = s.pc := rfl
@[simp] theorem State.setP_cycles (d : Byte) : (s.setP d).cycles = s.cycles := rfl
@[simp] theorem State.setP_nmiPending (d : Byte) : (s.setP d).nmiPending = s.nmiPending := rfl
@[simp] theorem State.setP_refusal (d : Byte) : (s.setP d).refusal = s.refusal := rfl
@[simp] theorem State.setP_ram (d : Byte) : (s.setP d).ram = s.ram := rfl
@[simp] theorem State.setP_cart (d : Byte) : (s.setP d).cart = s.cart := rfl
@[simp] theorem State.setP_pads (d : Byte) : (s.setP d).pads = s.pads := rfl
@[simp] theorem State.setP_ppu (d : Byte) : (s.setP d).ppu = s.ppu := rfl
@[simp] theorem State.setP_apu (d : Byte) : (s.setP d).apu = s.apu := rfl
@[simp] theorem State.setP_sched (d : Byte) : (s.setP d).sched = s.sched := rfl
@[simp] theorem State.setP_params (d : Byte) : (s.setP d).params = s.params := rfl
@[simp] theorem State.setP_cost (d : Byte) : (s.setP d).cost = s.cost := rfl
@[simp] theorem State.setP_draws (d : Byte) : (s.setP d).draws = s.draws := rfl

/-! `setPc` -/

@[simp] theorem State.setPc_a (w : Word) : (s.setPc w).a = s.a := rfl
@[simp] theorem State.setPc_x (w : Word) : (s.setPc w).x = s.x := rfl
@[simp] theorem State.setPc_y (w : Word) : (s.setPc w).y = s.y := rfl
@[simp] theorem State.setPc_sp (w : Word) : (s.setPc w).sp = s.sp := rfl
@[simp] theorem State.setPc_p (w : Word) : (s.setPc w).p = s.p := rfl
@[simp] theorem State.setPc_pc (w : Word) : (s.setPc w).pc = w := rfl
@[simp] theorem State.setPc_cycles (w : Word) : (s.setPc w).cycles = s.cycles := rfl
@[simp] theorem State.setPc_nmiPending (w : Word) : (s.setPc w).nmiPending = s.nmiPending := rfl
@[simp] theorem State.setPc_refusal (w : Word) : (s.setPc w).refusal = s.refusal := rfl
@[simp] theorem State.setPc_ram (w : Word) : (s.setPc w).ram = s.ram := rfl
@[simp] theorem State.setPc_cart (w : Word) : (s.setPc w).cart = s.cart := rfl
@[simp] theorem State.setPc_pads (w : Word) : (s.setPc w).pads = s.pads := rfl
@[simp] theorem State.setPc_ppu (w : Word) : (s.setPc w).ppu = s.ppu := rfl
@[simp] theorem State.setPc_apu (w : Word) : (s.setPc w).apu = s.apu := rfl
@[simp] theorem State.setPc_sched (w : Word) : (s.setPc w).sched = s.sched := rfl
@[simp] theorem State.setPc_params (w : Word) : (s.setPc w).params = s.params := rfl
@[simp] theorem State.setPc_cost (w : Word) : (s.setPc w).cost = s.cost := rfl
@[simp] theorem State.setPc_draws (w : Word) : (s.setPc w).draws = s.draws := rfl

/-! `setC` -/

@[simp] theorem State.setC_a (b : Bool) : (s.setC b).a = s.a := rfl
@[simp] theorem State.setC_x (b : Bool) : (s.setC b).x = s.x := rfl
@[simp] theorem State.setC_y (b : Bool) : (s.setC b).y = s.y := rfl
@[simp] theorem State.setC_sp (b : Bool) : (s.setC b).sp = s.sp := rfl
@[simp] theorem State.setC_p (b : Bool) : (s.setC b).p = setBit s.p 0 b := rfl
@[simp] theorem State.setC_pc (b : Bool) : (s.setC b).pc = s.pc := rfl
@[simp] theorem State.setC_cycles (b : Bool) : (s.setC b).cycles = s.cycles := rfl
@[simp] theorem State.setC_nmiPending (b : Bool) : (s.setC b).nmiPending = s.nmiPending := rfl
@[simp] theorem State.setC_refusal (b : Bool) : (s.setC b).refusal = s.refusal := rfl
@[simp] theorem State.setC_ram (b : Bool) : (s.setC b).ram = s.ram := rfl
@[simp] theorem State.setC_cart (b : Bool) : (s.setC b).cart = s.cart := rfl
@[simp] theorem State.setC_pads (b : Bool) : (s.setC b).pads = s.pads := rfl
@[simp] theorem State.setC_ppu (b : Bool) : (s.setC b).ppu = s.ppu := rfl
@[simp] theorem State.setC_apu (b : Bool) : (s.setC b).apu = s.apu := rfl
@[simp] theorem State.setC_sched (b : Bool) : (s.setC b).sched = s.sched := rfl
@[simp] theorem State.setC_params (b : Bool) : (s.setC b).params = s.params := rfl
@[simp] theorem State.setC_cost (b : Bool) : (s.setC b).cost = s.cost := rfl
@[simp] theorem State.setC_draws (b : Bool) : (s.setC b).draws = s.draws := rfl

/-! `setZ` -/

@[simp] theorem State.setZ_a (b : Bool) : (s.setZ b).a = s.a := rfl
@[simp] theorem State.setZ_x (b : Bool) : (s.setZ b).x = s.x := rfl
@[simp] theorem State.setZ_y (b : Bool) : (s.setZ b).y = s.y := rfl
@[simp] theorem State.setZ_sp (b : Bool) : (s.setZ b).sp = s.sp := rfl
@[simp] theorem State.setZ_p (b : Bool) : (s.setZ b).p = setBit s.p 1 b := rfl
@[simp] theorem State.setZ_pc (b : Bool) : (s.setZ b).pc = s.pc := rfl
@[simp] theorem State.setZ_cycles (b : Bool) : (s.setZ b).cycles = s.cycles := rfl
@[simp] theorem State.setZ_nmiPending (b : Bool) : (s.setZ b).nmiPending = s.nmiPending := rfl
@[simp] theorem State.setZ_refusal (b : Bool) : (s.setZ b).refusal = s.refusal := rfl
@[simp] theorem State.setZ_ram (b : Bool) : (s.setZ b).ram = s.ram := rfl
@[simp] theorem State.setZ_cart (b : Bool) : (s.setZ b).cart = s.cart := rfl
@[simp] theorem State.setZ_pads (b : Bool) : (s.setZ b).pads = s.pads := rfl
@[simp] theorem State.setZ_ppu (b : Bool) : (s.setZ b).ppu = s.ppu := rfl
@[simp] theorem State.setZ_apu (b : Bool) : (s.setZ b).apu = s.apu := rfl
@[simp] theorem State.setZ_sched (b : Bool) : (s.setZ b).sched = s.sched := rfl
@[simp] theorem State.setZ_params (b : Bool) : (s.setZ b).params = s.params := rfl
@[simp] theorem State.setZ_cost (b : Bool) : (s.setZ b).cost = s.cost := rfl
@[simp] theorem State.setZ_draws (b : Bool) : (s.setZ b).draws = s.draws := rfl

/-! `setI` -/

@[simp] theorem State.setI_a (b : Bool) : (s.setI b).a = s.a := rfl
@[simp] theorem State.setI_x (b : Bool) : (s.setI b).x = s.x := rfl
@[simp] theorem State.setI_y (b : Bool) : (s.setI b).y = s.y := rfl
@[simp] theorem State.setI_sp (b : Bool) : (s.setI b).sp = s.sp := rfl
@[simp] theorem State.setI_p (b : Bool) : (s.setI b).p = setBit s.p 2 b := rfl
@[simp] theorem State.setI_pc (b : Bool) : (s.setI b).pc = s.pc := rfl
@[simp] theorem State.setI_cycles (b : Bool) : (s.setI b).cycles = s.cycles := rfl
@[simp] theorem State.setI_nmiPending (b : Bool) : (s.setI b).nmiPending = s.nmiPending := rfl
@[simp] theorem State.setI_refusal (b : Bool) : (s.setI b).refusal = s.refusal := rfl
@[simp] theorem State.setI_ram (b : Bool) : (s.setI b).ram = s.ram := rfl
@[simp] theorem State.setI_cart (b : Bool) : (s.setI b).cart = s.cart := rfl
@[simp] theorem State.setI_pads (b : Bool) : (s.setI b).pads = s.pads := rfl
@[simp] theorem State.setI_ppu (b : Bool) : (s.setI b).ppu = s.ppu := rfl
@[simp] theorem State.setI_apu (b : Bool) : (s.setI b).apu = s.apu := rfl
@[simp] theorem State.setI_sched (b : Bool) : (s.setI b).sched = s.sched := rfl
@[simp] theorem State.setI_params (b : Bool) : (s.setI b).params = s.params := rfl
@[simp] theorem State.setI_cost (b : Bool) : (s.setI b).cost = s.cost := rfl
@[simp] theorem State.setI_draws (b : Bool) : (s.setI b).draws = s.draws := rfl

/-! `setD` -/

@[simp] theorem State.setD_a (b : Bool) : (s.setD b).a = s.a := rfl
@[simp] theorem State.setD_x (b : Bool) : (s.setD b).x = s.x := rfl
@[simp] theorem State.setD_y (b : Bool) : (s.setD b).y = s.y := rfl
@[simp] theorem State.setD_sp (b : Bool) : (s.setD b).sp = s.sp := rfl
@[simp] theorem State.setD_p (b : Bool) : (s.setD b).p = setBit s.p 3 b := rfl
@[simp] theorem State.setD_pc (b : Bool) : (s.setD b).pc = s.pc := rfl
@[simp] theorem State.setD_cycles (b : Bool) : (s.setD b).cycles = s.cycles := rfl
@[simp] theorem State.setD_nmiPending (b : Bool) : (s.setD b).nmiPending = s.nmiPending := rfl
@[simp] theorem State.setD_refusal (b : Bool) : (s.setD b).refusal = s.refusal := rfl
@[simp] theorem State.setD_ram (b : Bool) : (s.setD b).ram = s.ram := rfl
@[simp] theorem State.setD_cart (b : Bool) : (s.setD b).cart = s.cart := rfl
@[simp] theorem State.setD_pads (b : Bool) : (s.setD b).pads = s.pads := rfl
@[simp] theorem State.setD_ppu (b : Bool) : (s.setD b).ppu = s.ppu := rfl
@[simp] theorem State.setD_apu (b : Bool) : (s.setD b).apu = s.apu := rfl
@[simp] theorem State.setD_sched (b : Bool) : (s.setD b).sched = s.sched := rfl
@[simp] theorem State.setD_params (b : Bool) : (s.setD b).params = s.params := rfl
@[simp] theorem State.setD_cost (b : Bool) : (s.setD b).cost = s.cost := rfl
@[simp] theorem State.setD_draws (b : Bool) : (s.setD b).draws = s.draws := rfl

/-! `setV` -/

@[simp] theorem State.setV_a (b : Bool) : (s.setV b).a = s.a := rfl
@[simp] theorem State.setV_x (b : Bool) : (s.setV b).x = s.x := rfl
@[simp] theorem State.setV_y (b : Bool) : (s.setV b).y = s.y := rfl
@[simp] theorem State.setV_sp (b : Bool) : (s.setV b).sp = s.sp := rfl
@[simp] theorem State.setV_p (b : Bool) : (s.setV b).p = setBit s.p 6 b := rfl
@[simp] theorem State.setV_pc (b : Bool) : (s.setV b).pc = s.pc := rfl
@[simp] theorem State.setV_cycles (b : Bool) : (s.setV b).cycles = s.cycles := rfl
@[simp] theorem State.setV_nmiPending (b : Bool) : (s.setV b).nmiPending = s.nmiPending := rfl
@[simp] theorem State.setV_refusal (b : Bool) : (s.setV b).refusal = s.refusal := rfl
@[simp] theorem State.setV_ram (b : Bool) : (s.setV b).ram = s.ram := rfl
@[simp] theorem State.setV_cart (b : Bool) : (s.setV b).cart = s.cart := rfl
@[simp] theorem State.setV_pads (b : Bool) : (s.setV b).pads = s.pads := rfl
@[simp] theorem State.setV_ppu (b : Bool) : (s.setV b).ppu = s.ppu := rfl
@[simp] theorem State.setV_apu (b : Bool) : (s.setV b).apu = s.apu := rfl
@[simp] theorem State.setV_sched (b : Bool) : (s.setV b).sched = s.sched := rfl
@[simp] theorem State.setV_params (b : Bool) : (s.setV b).params = s.params := rfl
@[simp] theorem State.setV_cost (b : Bool) : (s.setV b).cost = s.cost := rfl
@[simp] theorem State.setV_draws (b : Bool) : (s.setV b).draws = s.draws := rfl

/-! `setN` -/

@[simp] theorem State.setN_a (b : Bool) : (s.setN b).a = s.a := rfl
@[simp] theorem State.setN_x (b : Bool) : (s.setN b).x = s.x := rfl
@[simp] theorem State.setN_y (b : Bool) : (s.setN b).y = s.y := rfl
@[simp] theorem State.setN_sp (b : Bool) : (s.setN b).sp = s.sp := rfl
@[simp] theorem State.setN_p (b : Bool) : (s.setN b).p = setBit s.p 7 b := rfl
@[simp] theorem State.setN_pc (b : Bool) : (s.setN b).pc = s.pc := rfl
@[simp] theorem State.setN_cycles (b : Bool) : (s.setN b).cycles = s.cycles := rfl
@[simp] theorem State.setN_nmiPending (b : Bool) : (s.setN b).nmiPending = s.nmiPending := rfl
@[simp] theorem State.setN_refusal (b : Bool) : (s.setN b).refusal = s.refusal := rfl
@[simp] theorem State.setN_ram (b : Bool) : (s.setN b).ram = s.ram := rfl
@[simp] theorem State.setN_cart (b : Bool) : (s.setN b).cart = s.cart := rfl
@[simp] theorem State.setN_pads (b : Bool) : (s.setN b).pads = s.pads := rfl
@[simp] theorem State.setN_ppu (b : Bool) : (s.setN b).ppu = s.ppu := rfl
@[simp] theorem State.setN_apu (b : Bool) : (s.setN b).apu = s.apu := rfl
@[simp] theorem State.setN_sched (b : Bool) : (s.setN b).sched = s.sched := rfl
@[simp] theorem State.setN_params (b : Bool) : (s.setN b).params = s.params := rfl
@[simp] theorem State.setN_cost (b : Bool) : (s.setN b).cost = s.cost := rfl
@[simp] theorem State.setN_draws (b : Bool) : (s.setN b).draws = s.draws := rfl

/-! `setZN` -/

@[simp] theorem State.setZN_a (d : Byte) : (s.setZN d).a = s.a := rfl
@[simp] theorem State.setZN_x (d : Byte) : (s.setZN d).x = s.x := rfl
@[simp] theorem State.setZN_y (d : Byte) : (s.setZN d).y = s.y := rfl
@[simp] theorem State.setZN_sp (d : Byte) : (s.setZN d).sp = s.sp := rfl
@[simp] theorem State.setZN_p (d : Byte) : (s.setZN d).p = setBit (setBit s.p 1 (d == 0)) 7 (d.getLsbD 7) := rfl
@[simp] theorem State.setZN_pc (d : Byte) : (s.setZN d).pc = s.pc := rfl
@[simp] theorem State.setZN_cycles (d : Byte) : (s.setZN d).cycles = s.cycles := rfl
@[simp] theorem State.setZN_nmiPending (d : Byte) : (s.setZN d).nmiPending = s.nmiPending := rfl
@[simp] theorem State.setZN_refusal (d : Byte) : (s.setZN d).refusal = s.refusal := rfl
@[simp] theorem State.setZN_ram (d : Byte) : (s.setZN d).ram = s.ram := rfl
@[simp] theorem State.setZN_cart (d : Byte) : (s.setZN d).cart = s.cart := rfl
@[simp] theorem State.setZN_pads (d : Byte) : (s.setZN d).pads = s.pads := rfl
@[simp] theorem State.setZN_ppu (d : Byte) : (s.setZN d).ppu = s.ppu := rfl
@[simp] theorem State.setZN_apu (d : Byte) : (s.setZN d).apu = s.apu := rfl
@[simp] theorem State.setZN_sched (d : Byte) : (s.setZN d).sched = s.sched := rfl
@[simp] theorem State.setZN_params (d : Byte) : (s.setZN d).params = s.params := rfl
@[simp] theorem State.setZN_cost (d : Byte) : (s.setZN d).cost = s.cost := rfl
@[simp] theorem State.setZN_draws (d : Byte) : (s.setZN d).draws = s.draws := rfl

/-! `addCost` -/

@[simp] theorem State.addCost_a (n : Nat) : (s.addCost n).a = s.a := rfl
@[simp] theorem State.addCost_x (n : Nat) : (s.addCost n).x = s.x := rfl
@[simp] theorem State.addCost_y (n : Nat) : (s.addCost n).y = s.y := rfl
@[simp] theorem State.addCost_sp (n : Nat) : (s.addCost n).sp = s.sp := rfl
@[simp] theorem State.addCost_p (n : Nat) : (s.addCost n).p = s.p := rfl
@[simp] theorem State.addCost_pc (n : Nat) : (s.addCost n).pc = s.pc := rfl
@[simp] theorem State.addCost_cycles (n : Nat) : (s.addCost n).cycles = s.cycles := rfl
@[simp] theorem State.addCost_nmiPending (n : Nat) : (s.addCost n).nmiPending = s.nmiPending := rfl
@[simp] theorem State.addCost_refusal (n : Nat) : (s.addCost n).refusal = s.refusal := rfl
@[simp] theorem State.addCost_ram (n : Nat) : (s.addCost n).ram = s.ram := rfl
@[simp] theorem State.addCost_cart (n : Nat) : (s.addCost n).cart = s.cart := rfl
@[simp] theorem State.addCost_pads (n : Nat) : (s.addCost n).pads = s.pads := rfl
@[simp] theorem State.addCost_ppu (n : Nat) : (s.addCost n).ppu = s.ppu := rfl
@[simp] theorem State.addCost_apu (n : Nat) : (s.addCost n).apu = s.apu := rfl
@[simp] theorem State.addCost_sched (n : Nat) : (s.addCost n).sched = s.sched := rfl
@[simp] theorem State.addCost_params (n : Nat) : (s.addCost n).params = s.params := rfl
@[simp] theorem State.addCost_cost (n : Nat) : (s.addCost n).cost = s.cost + n := rfl
@[simp] theorem State.addCost_draws (n : Nat) : (s.addCost n).draws = s.draws := rfl

/-! `advance` -/

@[simp] theorem State.advance_a (n : Nat) : (s.advance n).a = s.a := rfl
@[simp] theorem State.advance_x (n : Nat) : (s.advance n).x = s.x := rfl
@[simp] theorem State.advance_y (n : Nat) : (s.advance n).y = s.y := rfl
@[simp] theorem State.advance_sp (n : Nat) : (s.advance n).sp = s.sp := rfl
@[simp] theorem State.advance_p (n : Nat) : (s.advance n).p = s.p := rfl
@[simp] theorem State.advance_pc (n : Nat) : (s.advance n).pc = s.pc + BitVec.ofNat 16 n := rfl
@[simp] theorem State.advance_cycles (n : Nat) : (s.advance n).cycles = s.cycles := rfl
@[simp] theorem State.advance_nmiPending (n : Nat) : (s.advance n).nmiPending = s.nmiPending := rfl
@[simp] theorem State.advance_refusal (n : Nat) : (s.advance n).refusal = s.refusal := rfl
@[simp] theorem State.advance_ram (n : Nat) : (s.advance n).ram = s.ram := rfl
@[simp] theorem State.advance_cart (n : Nat) : (s.advance n).cart = s.cart := rfl
@[simp] theorem State.advance_pads (n : Nat) : (s.advance n).pads = s.pads := rfl
@[simp] theorem State.advance_ppu (n : Nat) : (s.advance n).ppu = s.ppu := rfl
@[simp] theorem State.advance_apu (n : Nat) : (s.advance n).apu = s.apu := rfl
@[simp] theorem State.advance_sched (n : Nat) : (s.advance n).sched = s.sched := rfl
@[simp] theorem State.advance_params (n : Nat) : (s.advance n).params = s.params := rfl
@[simp] theorem State.advance_cost (n : Nat) : (s.advance n).cost = s.cost := rfl
@[simp] theorem State.advance_draws (n : Nat) : (s.advance n).draws = s.draws := rfl

/-! `chargeBase` and `chargeCross` -/

@[simp] theorem State.chargeBase_a (i : Instr) : (s.chargeBase i).a = s.a := rfl
@[simp] theorem State.chargeBase_x (i : Instr) : (s.chargeBase i).x = s.x := rfl
@[simp] theorem State.chargeBase_y (i : Instr) : (s.chargeBase i).y = s.y := rfl
@[simp] theorem State.chargeBase_sp (i : Instr) : (s.chargeBase i).sp = s.sp := rfl
@[simp] theorem State.chargeBase_p (i : Instr) : (s.chargeBase i).p = s.p := rfl
@[simp] theorem State.chargeBase_pc (i : Instr) : (s.chargeBase i).pc = s.pc := rfl
@[simp] theorem State.chargeBase_cycles (i : Instr) : (s.chargeBase i).cycles = s.cycles := rfl
@[simp] theorem State.chargeBase_nmiPending (i : Instr) : (s.chargeBase i).nmiPending = s.nmiPending := rfl
@[simp] theorem State.chargeBase_refusal (i : Instr) : (s.chargeBase i).refusal = s.refusal := rfl
@[simp] theorem State.chargeBase_ram (i : Instr) : (s.chargeBase i).ram = s.ram := rfl
@[simp] theorem State.chargeBase_cart (i : Instr) : (s.chargeBase i).cart = s.cart := rfl
@[simp] theorem State.chargeBase_pads (i : Instr) : (s.chargeBase i).pads = s.pads := rfl
@[simp] theorem State.chargeBase_ppu (i : Instr) : (s.chargeBase i).ppu = s.ppu := rfl
@[simp] theorem State.chargeBase_apu (i : Instr) : (s.chargeBase i).apu = s.apu := rfl
@[simp] theorem State.chargeBase_sched (i : Instr) : (s.chargeBase i).sched = s.sched := rfl
@[simp] theorem State.chargeBase_params (i : Instr) : (s.chargeBase i).params = s.params := rfl
@[simp] theorem State.chargeBase_cost (i : Instr) : (s.chargeBase i).cost = (instrCycles s.params i).base := rfl
@[simp] theorem State.chargeBase_draws (i : Instr) : (s.chargeBase i).draws = s.draws := rfl

@[simp] theorem State.chargeCross_a (i : Instr) (c : Bool) : (s.chargeCross i c).a = s.a := rfl
@[simp] theorem State.chargeCross_x (i : Instr) (c : Bool) : (s.chargeCross i c).x = s.x := rfl
@[simp] theorem State.chargeCross_y (i : Instr) (c : Bool) : (s.chargeCross i c).y = s.y := rfl
@[simp] theorem State.chargeCross_sp (i : Instr) (c : Bool) : (s.chargeCross i c).sp = s.sp := rfl
@[simp] theorem State.chargeCross_p (i : Instr) (c : Bool) : (s.chargeCross i c).p = s.p := rfl
@[simp] theorem State.chargeCross_pc (i : Instr) (c : Bool) : (s.chargeCross i c).pc = s.pc := rfl
@[simp] theorem State.chargeCross_cycles (i : Instr) (c : Bool) : (s.chargeCross i c).cycles = s.cycles := rfl
@[simp] theorem State.chargeCross_nmiPending (i : Instr) (c : Bool) : (s.chargeCross i c).nmiPending = s.nmiPending := rfl
@[simp] theorem State.chargeCross_refusal (i : Instr) (c : Bool) : (s.chargeCross i c).refusal = s.refusal := rfl
@[simp] theorem State.chargeCross_ram (i : Instr) (c : Bool) : (s.chargeCross i c).ram = s.ram := rfl
@[simp] theorem State.chargeCross_cart (i : Instr) (c : Bool) : (s.chargeCross i c).cart = s.cart := rfl
@[simp] theorem State.chargeCross_pads (i : Instr) (c : Bool) : (s.chargeCross i c).pads = s.pads := rfl
@[simp] theorem State.chargeCross_ppu (i : Instr) (c : Bool) : (s.chargeCross i c).ppu = s.ppu := rfl
@[simp] theorem State.chargeCross_apu (i : Instr) (c : Bool) : (s.chargeCross i c).apu = s.apu := rfl
@[simp] theorem State.chargeCross_sched (i : Instr) (c : Bool) : (s.chargeCross i c).sched = s.sched := rfl
@[simp] theorem State.chargeCross_params (i : Instr) (c : Bool) : (s.chargeCross i c).params = s.params := rfl
@[simp] theorem State.chargeCross_cost (i : Instr) (c : Bool) : (s.chargeCross i c).cost = s.cost + (if c && (instrCycles s.params i).pageCross then 1 else 0) := rfl
@[simp] theorem State.chargeCross_draws (i : Instr) (c : Bool) : (s.chargeCross i c).draws = s.draws := rfl

end Sys2Proof.Machine
end

