-- ==== Sys2Proof/Laws/Bus.lean ====
section
/-! SUPPORT. What a CPU-bus read and a CPU-bus write can change, and the plain memories they reach. -/

namespace Sys2Proof.Machine

/-! Reads. -/

/-- A PPU register read changes nothing but six PPU fields and the NMI latch. -/
theorem State.ppuRegRead_frame (s : State) (r : BitVec 3) :
    (s.ppuRegRead r).2 =
      { s with
        nmiPending := (s.ppuRegRead r).2.nmiPending
        ppu := { s.ppu with
          vblank := (s.ppuRegRead r).2.ppu.vblank
          w := (s.ppuRegRead r).2.ppu.w
          ioLatch := (s.ppuRegRead r).2.ppu.ioLatch
          readBuf := (s.ppuRegRead r).2.ppu.readBuf
          v := (s.ppuRegRead r).2.ppu.v
          nmiOut := (s.ppuRegRead r).2.ppu.nmiOut } } := by
  unfold State.ppuRegRead
  split <;> rfl

/-- A controller read changes nothing but the ports and the draw counter. -/
theorem State.readPad_frame (s : State) (port : Bool) (a : Word) :
    (s.readPad port a).2 = { s with pads := (s.readPad port a).2.pads, draws := (s.readPad port a).2.draws } := by
  cases port <;> cases h : s.pads.strobe <;> simp [State.readPad, State.reloadPad, h]

/-- A CPU-bus read changes nothing but six PPU fields, the NMI latch, the frame IRQ flag, the ports and the draw counter
(20_memory.md R80). -/
theorem State.cpuRead_frame (s : State) (a : Word) :
    (s.cpuRead a).2 =
      { s with
        nmiPending := (s.cpuRead a).2.nmiPending
        pads := (s.cpuRead a).2.pads
        draws := (s.cpuRead a).2.draws
        apu := { s.apu with frameIrq := (s.cpuRead a).2.apu.frameIrq }
        ppu := { s.ppu with
          vblank := (s.cpuRead a).2.ppu.vblank
          w := (s.cpuRead a).2.ppu.w
          ioLatch := (s.cpuRead a).2.ppu.ioLatch
          readBuf := (s.cpuRead a).2.ppu.readBuf
          v := (s.cpuRead a).2.ppu.v
          nmiOut := (s.cpuRead a).2.ppu.nmiOut } } := by
  unfold State.cpuRead
  split
  · rfl
  split
  · rw [State.ppuRegRead_frame]
  split
  · rfl
  split
  · rfl
  split
  · rw [State.readPad_frame]
  split
  · rw [State.readPad_frame]
  split <;> rfl

variable (s : State) (w : Word) (d : Byte)

@[simp] theorem State.cpuRead_a : (s.cpuRead w).2.a = s.a := by rw [State.cpuRead_frame]
@[simp] theorem State.cpuRead_x : (s.cpuRead w).2.x = s.x := by rw [State.cpuRead_frame]
@[simp] theorem State.cpuRead_y : (s.cpuRead w).2.y = s.y := by rw [State.cpuRead_frame]
@[simp] theorem State.cpuRead_sp : (s.cpuRead w).2.sp = s.sp := by rw [State.cpuRead_frame]
@[simp] theorem State.cpuRead_p : (s.cpuRead w).2.p = s.p := by rw [State.cpuRead_frame]
@[simp] theorem State.cpuRead_pc : (s.cpuRead w).2.pc = s.pc := by rw [State.cpuRead_frame]
@[simp] theorem State.cpuRead_cycles : (s.cpuRead w).2.cycles = s.cycles := by rw [State.cpuRead_frame]
@[simp] theorem State.cpuRead_refusal : (s.cpuRead w).2.refusal = s.refusal := by rw [State.cpuRead_frame]
@[simp] theorem State.cpuRead_ram : (s.cpuRead w).2.ram = s.ram := by rw [State.cpuRead_frame]
@[simp] theorem State.cpuRead_cart : (s.cpuRead w).2.cart = s.cart := by rw [State.cpuRead_frame]
@[simp] theorem State.cpuRead_sched : (s.cpuRead w).2.sched = s.sched := by rw [State.cpuRead_frame]
@[simp] theorem State.cpuRead_params : (s.cpuRead w).2.params = s.params := by rw [State.cpuRead_frame]
@[simp] theorem State.cpuRead_cost : (s.cpuRead w).2.cost = s.cost := by rw [State.cpuRead_frame]
@[simp] theorem State.cpuRead_ppu_ctrl : (s.cpuRead w).2.ppu.ctrl = s.ppu.ctrl := by rw [State.cpuRead_frame]
@[simp] theorem State.cpuRead_ppu_mask : (s.cpuRead w).2.ppu.mask = s.ppu.mask := by rw [State.cpuRead_frame]
@[simp] theorem State.cpuRead_ppu_sprite0Hit : (s.cpuRead w).2.ppu.sprite0Hit = s.ppu.sprite0Hit := by rw [State.cpuRead_frame]
@[simp] theorem State.cpuRead_ppu_spriteOverflow : (s.cpuRead w).2.ppu.spriteOverflow = s.ppu.spriteOverflow := by rw [State.cpuRead_frame]
@[simp] theorem State.cpuRead_ppu_oamaddr : (s.cpuRead w).2.ppu.oamaddr = s.ppu.oamaddr := by rw [State.cpuRead_frame]
@[simp] theorem State.cpuRead_ppu_t : (s.cpuRead w).2.ppu.t = s.ppu.t := by rw [State.cpuRead_frame]
@[simp] theorem State.cpuRead_ppu_fineX : (s.cpuRead w).2.ppu.fineX = s.ppu.fineX := by rw [State.cpuRead_frame]
@[simp] theorem State.cpuRead_ppu_oam : (s.cpuRead w).2.ppu.oam = s.ppu.oam := by rw [State.cpuRead_frame]
@[simp] theorem State.cpuRead_ppu_secOam : (s.cpuRead w).2.ppu.secOam = s.ppu.secOam := by rw [State.cpuRead_frame]
@[simp] theorem State.cpuRead_ppu_ciram : (s.cpuRead w).2.ppu.ciram = s.ppu.ciram := by rw [State.cpuRead_frame]
@[simp] theorem State.cpuRead_ppu_palette : (s.cpuRead w).2.ppu.palette = s.ppu.palette := by rw [State.cpuRead_frame]
@[simp] theorem State.cpuRead_ppu_scanline : (s.cpuRead w).2.ppu.scanline = s.ppu.scanline := by rw [State.cpuRead_frame]
@[simp] theorem State.cpuRead_ppu_dot : (s.cpuRead w).2.ppu.dot = s.ppu.dot := by rw [State.cpuRead_frame]
@[simp] theorem State.cpuRead_ppu_oddFrame : (s.cpuRead w).2.ppu.oddFrame = s.ppu.oddFrame := by rw [State.cpuRead_frame]
@[simp] theorem State.cpuRead_ppu_sprCount : (s.cpuRead w).2.ppu.sprCount = s.ppu.sprCount := by rw [State.cpuRead_frame]
@[simp] theorem State.cpuRead_ppu_sprites : (s.cpuRead w).2.ppu.sprites = s.ppu.sprites := by rw [State.cpuRead_frame]
@[simp] theorem State.cpuRead_ppu_frame : (s.cpuRead w).2.ppu.frame = s.ppu.frame := by rw [State.cpuRead_frame]
@[simp] theorem State.cpuRead_apu_dmc : (s.cpuRead w).2.apu.dmc = s.apu.dmc := by rw [State.cpuRead_frame]

/-- Below 0x2000 a read gives the RAM byte of the address's low 11 bits and changes nothing (20_memory.md R72). -/
theorem State.cpuRead_of_ram {s : State} {w : Word} (h : w.toNat < 0x2000) : s.cpuRead w = (Memory.read s.ram (ramIndex w), s) := by
  simp [State.cpuRead, h]

/-- From 0x4020 on a read is the cartridge's and changes nothing (61_bus_cartridge.md R485). -/
theorem State.cpuRead_of_cart {s : State} {w : Word} (h : 0x4020 ≤ w.toNat) : s.cpuRead w = (s.cart.read s.params w, s) := by
  have h1 : ¬ w.toNat < 0x2000 := by omega
  have h2 : ¬ w.toNat < 0x4000 := by omega
  have h3 : ¬ w.toNat < 0x4015 := by omega
  have h4 : ¬ w.toNat = 0x4015 := by omega
  have h5 : ¬ w.toNat = 0x4016 := by omega
  have h6 : ¬ w.toNat = 0x4017 := by omega
  have h7 : ¬ w.toNat < 0x4020 := by omega
  simp [State.cpuRead, h1, h2, h3, h4, h5, h6, h7]

/-- A read of plain memory changes nothing. -/
theorem State.cpuRead_plain {s : State} {w : Word} (h : s.isPlainMemory w = true) : (s.cpuRead w).2 = s := by
  simp only [State.isPlainMemory, Bool.or_eq_true, Bool.and_eq_true, decide_eq_true_eq] at h
  rcases h with h | ⟨-, h⟩
  · rw [State.cpuRead_of_ram h]
  · rw [State.cpuRead_of_cart (by omega)]

/-! Writes. -/

/-- A PPU bus write changes nothing but the cartridge's PPU-side memories, CIRAM and the palette. -/
theorem State.ppuBusWrite_frame (s : State) (addr : PpuAddr) (d : Byte) :
    s.ppuBusWrite addr d =
      { s with
        cart := { s.cart with chr := (s.ppuBusWrite addr d).cart.chr, vramExtra := (s.ppuBusWrite addr d).cart.vramExtra }
        ppu := { s.ppu with
          ciram := (s.ppuBusWrite addr d).ppu.ciram
          palette := (s.ppuBusWrite addr d).ppu.palette } } := by
  unfold State.ppuBusWrite
  split
  · unfold Cart.ppuWrite; split <;> rfl
  split
  · unfold State.ntWrite; cases nametableSelect s.cart.mirrorMode addr <;> rfl
  · rfl

/-- A PPU register write changes nothing but the PPU, the NMI latch and the cartridge's PPU-side memories; of the PPU it leaves
the timing, the pipeline, the sprite units and the frame buffer alone. -/
theorem State.ppuRegWrite_frame (s : State) (r : BitVec 3) (d : Byte) :
    s.ppuRegWrite r d =
      { s with
        nmiPending := (s.ppuRegWrite r d).nmiPending
        cart := { s.cart with chr := (s.ppuRegWrite r d).cart.chr, vramExtra := (s.ppuRegWrite r d).cart.vramExtra }
        ppu := { s.ppu with
          ctrl := (s.ppuRegWrite r d).ppu.ctrl
          mask := (s.ppuRegWrite r d).ppu.mask
          oamaddr := (s.ppuRegWrite r d).ppu.oamaddr
          v := (s.ppuRegWrite r d).ppu.v
          t := (s.ppuRegWrite r d).ppu.t
          fineX := (s.ppuRegWrite r d).ppu.fineX
          w := (s.ppuRegWrite r d).ppu.w
          ioLatch := d
          nmiOut := (s.ppuRegWrite r d).ppu.nmiOut
          oam := (s.ppuRegWrite r d).ppu.oam
          ciram := (s.ppuRegWrite r d).ppu.ciram
          palette := (s.ppuRegWrite r d).ppu.palette } } := by
  unfold State.ppuRegWrite
  split
  · rfl
  · rfl
  · rfl
  · rfl
  · cases h : s.ppu.w <;> simp [Ppu.writeScroll, State.latchPpu, h]
  · cases h : s.ppu.w <;> simp [Ppu.writeAddr, State.latchPpu, h]
  · simp only [State.writePpuData]; rw [State.ppuBusWrite_frame]; rfl
  · rfl

/-- The bytes OAM DMA copies change OAM, and the state its reads change. -/
theorem State.dmaCopy_frame (base : Word) (n i : Nat) (s : State) :
    State.dmaCopy base n i s =
      { s with
        nmiPending := (State.dmaCopy base n i s).nmiPending
        pads := (State.dmaCopy base n i s).pads
        draws := (State.dmaCopy base n i s).draws
        apu := { s.apu with frameIrq := (State.dmaCopy base n i s).apu.frameIrq }
        ppu := { s.ppu with
          vblank := (State.dmaCopy base n i s).ppu.vblank
          w := (State.dmaCopy base n i s).ppu.w
          ioLatch := (State.dmaCopy base n i s).ppu.ioLatch
          readBuf := (State.dmaCopy base n i s).ppu.readBuf
          v := (State.dmaCopy base n i s).ppu.v
          nmiOut := (State.dmaCopy base n i s).ppu.nmiOut
          oam := (State.dmaCopy base n i s).ppu.oam } } := by
  induction n generalizing i s with
  | zero => rfl
  | succ n ih => rw [State.dmaCopy, ih, State.cpuRead_frame]

/-- A strobe write changes nothing but the ports and the draw counter. -/
theorem State.strobePads_frame (s : State) (d : Byte) :
    s.strobePads d = { s with pads := (s.strobePads d).pads, draws := (s.strobePads d).draws } := by
  unfold State.strobePads
  cases d.getLsbD 0 <;> simp [State.reloadPads]

/-- A cartridge write changes PRG-RAM or the MMC1 registers, and nothing else. -/
theorem Cart.write_frame (c : Cart) (a : Word) (d : Byte) :
    c.write a d = { c with prgRam := (c.write a d).prgRam, mmc1 := (c.write a d).mmc1 } := by
  unfold Cart.write
  split
  · rfl
  split
  · rfl
  split
  · rfl
  · unfold Cart.mapperWrite; split <;> rfl

/-- A CPU-bus write leaves these fields alone: the CPU's registers, the cycle counter, the refusal, the scheduler and the
parameters. -/
theorem State.cpuWrite_frame (s : State) (a : Word) (d : Byte) :
    s.cpuWrite a d =
      { s with
        ram := (s.cpuWrite a d).ram
        cart := (s.cpuWrite a d).cart
        pads := (s.cpuWrite a d).pads
        ppu := (s.cpuWrite a d).ppu
        apu := (s.cpuWrite a d).apu
        nmiPending := (s.cpuWrite a d).nmiPending
        cost := (s.cpuWrite a d).cost
        draws := (s.cpuWrite a d).draws } := by
  unfold State.cpuWrite
  split
  · rfl
  split
  · rw [State.ppuRegWrite_frame]
  split
  · rfl
  split
  · unfold State.oamDma; rw [State.dmaCopy_frame]
  split
  · rfl
  split
  · rw [State.strobePads_frame]
  split
  · rfl
  split <;> rfl

@[simp] theorem State.cpuWrite_a : (s.cpuWrite w d).a = s.a := by rw [State.cpuWrite_frame]
@[simp] theorem State.cpuWrite_x : (s.cpuWrite w d).x = s.x := by rw [State.cpuWrite_frame]
@[simp] theorem State.cpuWrite_y : (s.cpuWrite w d).y = s.y := by rw [State.cpuWrite_frame]
@[simp] theorem State.cpuWrite_sp : (s.cpuWrite w d).sp = s.sp := by rw [State.cpuWrite_frame]
@[simp] theorem State.cpuWrite_p : (s.cpuWrite w d).p = s.p := by rw [State.cpuWrite_frame]
@[simp] theorem State.cpuWrite_pc : (s.cpuWrite w d).pc = s.pc := by rw [State.cpuWrite_frame]
@[simp] theorem State.cpuWrite_cycles : (s.cpuWrite w d).cycles = s.cycles := by rw [State.cpuWrite_frame]
@[simp] theorem State.cpuWrite_refusal : (s.cpuWrite w d).refusal = s.refusal := by rw [State.cpuWrite_frame]
@[simp] theorem State.cpuWrite_sched : (s.cpuWrite w d).sched = s.sched := by rw [State.cpuWrite_frame]
@[simp] theorem State.cpuWrite_params : (s.cpuWrite w d).params = s.params := by rw [State.cpuWrite_frame]

/-- Below 0x2000 a write changes one RAM byte and nothing else (20_memory.md R72). -/
theorem State.cpuWrite_of_ram {s : State} {w : Word} {d : Byte} (h : w.toNat < 0x2000) :
    s.cpuWrite w d = { s with ram := Memory.write s.ram (ramIndex w) d } := by
  simp [State.cpuWrite, h]

/-- From 0x2000 on a write leaves RAM alone. -/
theorem State.cpuWrite_ram_other {s : State} {w : Word} {d : Byte} (h : 0x2000 ≤ w.toNat) : (s.cpuWrite w d).ram = s.ram := by
  have h1 : ¬ w.toNat < 0x2000 := by omega
  unfold State.cpuWrite
  rw [if_neg h1]
  split
  · rw [State.ppuRegWrite_frame]
  split
  · rfl
  split
  · unfold State.oamDma; rw [State.dmaCopy_frame]
  split
  · rfl
  split
  · rw [State.strobePads_frame]
  split
  · rfl
  split <;> rfl

/-- From 0x4020 on a write is the cartridge's (61_bus_cartridge.md R485). -/
theorem State.cpuWrite_of_cart {s : State} {w : Word} {d : Byte} (h : 0x4020 ≤ w.toNat) :
    s.cpuWrite w d = { s with cart := s.cart.write w d } := by
  have h1 : ¬ w.toNat < 0x2000 := by omega
  have h2 : ¬ w.toNat < 0x4000 := by omega
  have h3 : ¬ w.toNat < 0x4014 := by omega
  have h4 : ¬ w.toNat = 0x4014 := by omega
  have h5 : ¬ w.toNat = 0x4015 := by omega
  have h6 : ¬ w.toNat = 0x4016 := by omega
  have h7 : ¬ w.toNat = 0x4017 := by omega
  have h8 : ¬ w.toNat < 0x4020 := by omega
  simp [State.cpuWrite, h1, h2, h3, h4, h5, h6, h7, h8]

/-- No write changes PRG-ROM, the header's fields or the mapper (61_bus_cartridge.md R498). -/
theorem State.cpuWrite_cart_frame (s : State) (w : Word) (d : Byte) :
    (s.cpuWrite w d).cart =
      { s.cart with
        chr := (s.cpuWrite w d).cart.chr
        vramExtra := (s.cpuWrite w d).cart.vramExtra
        prgRam := (s.cpuWrite w d).cart.prgRam
        mmc1 := (s.cpuWrite w d).cart.mmc1 } := by
  unfold State.cpuWrite
  split
  · rfl
  split
  · rw [State.ppuRegWrite_frame]
  split
  · rfl
  split
  · unfold State.oamDma; rw [State.dmaCopy_frame]
  split
  · rfl
  split
  · rw [State.strobePads_frame]
  split
  · rfl
  split
  · rfl
  · simp only; rw [Cart.write_frame]

/-! Addresses in the first two pages. -/

theorem toNat_word (hi lo : Byte) : (word hi lo).toNat = hi.toNat * 256 + lo.toNat := by
  have hl := lo.isLt
  unfold word
  rw [BitVec.toNat_append, Nat.shiftLeft_eq, Nat.mul_comm, ← Nat.two_pow_add_eq_or_of_lt hl]

@[simp] theorem word_split (w : Word) : word (hiByte w) (loByte w) = w := by
  have := w.isLt
  apply BitVec.eq_of_toNat_eq
  rw [toNat_word]
  simp only [hiByte, loByte, BitVec.extractLsb'_toNat, BitVec.toNat_setWidth, Nat.shiftRight_eq_div_pow]
  omega

@[simp] theorem hiByte_word (hi lo : Byte) : hiByte (word hi lo) = hi := by
  have := hi.isLt; have := lo.isLt
  apply BitVec.eq_of_toNat_eq
  simp only [hiByte, BitVec.extractLsb'_toNat, toNat_word, Nat.shiftRight_eq_div_pow]
  omega

@[simp] theorem loByte_word (hi lo : Byte) : loByte (word hi lo) = lo := by
  have := hi.isLt; have := lo.isLt
  apply BitVec.eq_of_toNat_eq
  simp only [loByte, BitVec.toNat_setWidth, toNat_word]
  omega

/-- A zero-page address reaches the RAM byte of its number. -/
theorem zeroPage_lt (b : Byte) : (b.setWidth 16 : Word).toNat < 0x2000 := by
  have := b.isLt
  simp only [BitVec.toNat_setWidth]
  omega

theorem ramIndex_zeroPage (b : Byte) : ramIndex (b.setWidth 16) = b.toNat := by
  have := b.isLt
  simp only [ramIndex, BitVec.toNat_setWidth]
  omega

/-- A stack address is a RAM address of page 1. -/
theorem stackAddr_lt (sp : Byte) : (stackAddr sp).toNat < 0x2000 := by
  have := sp.isLt
  rw [stackAddr, toNat_word]
  change 1 * 256 + sp.toNat < 0x2000
  omega

theorem ramIndex_stackAddr (sp : Byte) : ramIndex (stackAddr sp) = 256 + sp.toNat := by
  have := sp.isLt
  simp only [ramIndex, BitVec.toNat_setWidth, stackAddr, toNat_word]
  change (1 * 256 + sp.toNat) % 2 ^ 11 = _
  omega

/-! Where a bus write goes, memory by memory. -/

/-- Only a write to a PPU register changes CHR, the four-screen RAM, CIRAM or the palette. -/
theorem State.cpuWrite_ppuMemories {s : State} {w : Word} {d : Byte} (h : ¬ (0x2000 ≤ w.toNat ∧ w.toNat < 0x4000)) :
    (s.cpuWrite w d).cart.chr = s.cart.chr ∧ (s.cpuWrite w d).cart.vramExtra = s.cart.vramExtra ∧
    (s.cpuWrite w d).ppu.ciram = s.ppu.ciram ∧ (s.cpuWrite w d).ppu.palette = s.ppu.palette := by
  unfold State.cpuWrite
  split
  · simp
  split
  · omega
  split
  · simp
  split
  · simp only [State.oamDma]
    rw [State.dmaCopy_frame]; simp
  split
  · simp
  split
  · rw [State.strobePads_frame]; simp
  split
  · simp
  split
  · simp
  · simp only
    rw [Cart.write_frame]; simp

/-- Only a write to a PPU register or to 0x4014 changes OAM. -/
theorem State.cpuWrite_oam {s : State} {w : Word} {d : Byte} (h : ¬ (0x2000 ≤ w.toNat ∧ w.toNat < 0x4000))
    (h' : w.toNat ≠ 0x4014) : (s.cpuWrite w d).ppu.oam = s.ppu.oam := by
  unfold State.cpuWrite
  split
  · rfl
  split
  · omega
  split
  · rfl
  split
  · rfl
  split
  · rw [State.strobePads_frame]
  split
  · rfl
  split <;> rfl

/-- PRG-RAM after a bus write (61_bus_cartridge.md R485, R495). -/
theorem State.cpuWrite_prgRam (s : State) (w : Word) (d : Byte) :
    (s.cpuWrite w d).cart.prgRam =
      if s.cart.present = true ∧ 0x6000 ≤ w.toNat ∧ w.toNat < 0x8000 then Memory.write s.cart.prgRam (w.toNat - 0x6000) d
      else s.cart.prgRam := by
  by_cases h : 0x4020 ≤ w.toNat
  · rw [State.cpuWrite_of_cart h]
    simp only [Cart.write, Cart.mapperWrite]
    split
    · simp_all
    split
    · rw [if_neg (by omega)]
    split
    · rw [if_pos ⟨by simp_all, by omega, by omega⟩]
    · rw [if_neg (by omega)]
      split <;> rfl
  · rw [if_neg (by omega)]
    unfold State.cpuWrite
    split
    · rfl
    split
    · rw [State.ppuRegWrite_frame]
    split
    · rfl
    split
    · simp only [State.oamDma]
      rw [State.dmaCopy_frame]
    split
    · rfl
    split
    · rw [State.strobePads_frame]
    split
    · rfl
    rw [if_pos (by omega)]

/-- Only OAM DMA adds to the cost (61_bus_cartridge.md R515, R516). -/
theorem State.cpuWrite_cost (s : State) (w : Word) (d : Byte) :
    (s.cpuWrite w d).cost = if w = 0x4014 then s.cost + s.dmaCycles else s.cost := by
  by_cases h : w = 0x4014
  · subst h
    simp only [State.cpuWrite, State.oamDma]
    rw [State.dmaCopy_frame]
    rfl
  · have h' : w.toNat ≠ 0x4014 := fun e => h (BitVec.eq_of_toNat_eq e)
    rw [if_neg h]
    unfold State.cpuWrite
    split
    · rfl
    split
    · rw [State.ppuRegWrite_frame]
    split
    · rfl
    split
    · rfl
    split
    · rw [State.strobePads_frame]
    split
    · rfl
    split <;> rfl

end Sys2Proof.Machine
end

