-- ==== Sys2Proof/Laws/Devices.lean ====
section
/-! SUPPORT. What the devices' ticks can change. -/

namespace Sys2Proof.Machine

/-! The PPU. -/

theorem Ppu.fetchDot_frame (p : Ppu) (c : Cart) (pr : Params) :
    p.fetchDot c pr = { p with
      ntLatch := (p.fetchDot c pr).ntLatch, atLatch := (p.fetchDot c pr).atLatch
      ptLoLatch := (p.fetchDot c pr).ptLoLatch, ptHiLatch := (p.fetchDot c pr).ptHiLatch
      bgLo := (p.fetchDot c pr).bgLo, bgHi := (p.fetchDot c pr).bgHi
      atLo := (p.fetchDot c pr).atLo, atHi := (p.fetchDot c pr).atHi, v := (p.fetchDot c pr).v } := by
  unfold Ppu.fetchDot
  split <;> rfl

theorem Ppu.shiftStage_frame (p : Ppu) :
    p.shiftStage = { p with
      bgLo := p.shiftStage.bgLo, bgHi := p.shiftStage.bgHi, atLo := p.shiftStage.atLo, atHi := p.shiftStage.atHi } := by
  unfold Ppu.shiftStage
  split <;> rfl

theorem Ppu.outputPixel_frame (p : Ppu) (pr : Params) (x : Nat) :
    p.outputPixel pr x = { p with
      frame := (p.outputPixel pr x).frame, sprite0Hit := (p.outputPixel pr x).sprite0Hit } := by
  unfold Ppu.outputPixel
  split <;> rfl

theorem Ppu.pixelStage_frame (p : Ppu) (pr : Params) :
    p.pixelStage pr = { p with frame := (p.pixelStage pr).frame, sprite0Hit := (p.pixelStage pr).sprite0Hit } := by
  unfold Ppu.pixelStage
  split
  · rw [Ppu.outputPixel_frame]
  · rfl

theorem Ppu.fetchStage_frame (p : Ppu) (c : Cart) (pr : Params) :
    p.fetchStage c pr = { p with
      ntLatch := (p.fetchStage c pr).ntLatch, atLatch := (p.fetchStage c pr).atLatch
      ptLoLatch := (p.fetchStage c pr).ptLoLatch, ptHiLatch := (p.fetchStage c pr).ptHiLatch
      bgLo := (p.fetchStage c pr).bgLo, bgHi := (p.fetchStage c pr).bgHi
      atLo := (p.fetchStage c pr).atLo, atHi := (p.fetchStage c pr).atHi, v := (p.fetchStage c pr).v } := by
  unfold Ppu.fetchStage
  split
  · rw [Ppu.fetchDot_frame]
  · rfl

theorem Ppu.scrollStage_frame (p : Ppu) : p.scrollStage = { p with v := p.scrollStage.v } := by
  unfold Ppu.scrollStage
  split
  · rfl
  split
  · rfl
  split <;> rfl

/-- The background and pixel work changes the pipeline, `v`, the frame buffer and the sprite-0 hit flag, and nothing else. -/
theorem Ppu.backgroundWork_frame (p : Ppu) (c : Cart) (pr : Params) :
    p.backgroundWork c pr = { p with
      ntLatch := (p.backgroundWork c pr).ntLatch, atLatch := (p.backgroundWork c pr).atLatch
      ptLoLatch := (p.backgroundWork c pr).ptLoLatch, ptHiLatch := (p.backgroundWork c pr).ptHiLatch
      bgLo := (p.backgroundWork c pr).bgLo, bgHi := (p.backgroundWork c pr).bgHi
      atLo := (p.backgroundWork c pr).atLo, atHi := (p.backgroundWork c pr).atHi, v := (p.backgroundWork c pr).v
      frame := (p.backgroundWork c pr).frame, sprite0Hit := (p.backgroundWork c pr).sprite0Hit } := by
  unfold Ppu.backgroundWork
  split
  · rw [Ppu.scrollStage_frame, Ppu.fetchStage_frame, Ppu.pixelStage_frame, Ppu.shiftStage_frame]
  split
  · rfl
  · rw [Ppu.pixelStage_frame]

/-- Sprite work changes secondary OAM, the overflow flag, the sprite units and OAMADDR, and nothing else. -/
theorem Ppu.spriteWork_frame (p : Ppu) (c : Cart) (pr : Params) :
    p.spriteWork c pr = { p with
      secOam := (p.spriteWork c pr).secOam, spriteOverflow := (p.spriteWork c pr).spriteOverflow
      sprCount := (p.spriteWork c pr).sprCount, sprites := (p.spriteWork c pr).sprites
      oamaddr := (p.spriteWork c pr).oamaddr } := by
  simp only [Ppu.spriteWork, Ppu.evalSprites]
  split <;> (try split) <;> (try split) <;> (try split) <;> rfl

theorem Ppu.flagWork_frame (p : Ppu) :
    p.flagWork = { p with
      vblank := p.flagWork.vblank, sprite0Hit := p.flagWork.sprite0Hit, spriteOverflow := p.flagWork.spriteOverflow } := by
  unfold Ppu.flagWork
  split
  · rfl
  split <;> rfl

/-- A dot's work changes no register, no memory but secondary OAM and the frame buffer, and not the position. -/
theorem Ppu.dotWork_frame (p : Ppu) (c : Cart) (pr : Params) :
    p.dotWork c pr = { p with
      vblank := p.flagWork.vblank, sprite0Hit := (p.dotWork c pr).sprite0Hit, spriteOverflow := (p.dotWork c pr).spriteOverflow
      ntLatch := (p.dotWork c pr).ntLatch, atLatch := (p.dotWork c pr).atLatch
      ptLoLatch := (p.dotWork c pr).ptLoLatch, ptHiLatch := (p.dotWork c pr).ptHiLatch
      bgLo := (p.dotWork c pr).bgLo, bgHi := (p.dotWork c pr).bgHi
      atLo := (p.dotWork c pr).atLo, atHi := (p.dotWork c pr).atHi, v := (p.dotWork c pr).v
      frame := (p.dotWork c pr).frame
      secOam := (p.dotWork c pr).secOam, sprCount := (p.dotWork c pr).sprCount
      sprites := (p.dotWork c pr).sprites, oamaddr := (p.dotWork c pr).oamaddr } := by
  unfold Ppu.dotWork
  rw [Ppu.spriteWork_frame, Ppu.backgroundWork_frame, Ppu.flagWork_frame]

/-- Moving on changes the position and the frame parity, and nothing else. -/
theorem Ppu.nextDot_frame (p : Ppu) (pr : Params) :
    p.nextDot pr = { p with
      dot := (p.nextDot pr).dot, scanline := (p.nextDot pr).scanline, oddFrame := (p.nextDot pr).oddFrame } := by
  unfold Ppu.nextDot
  split
  · rfl
  split
  · split <;> rfl
  · rfl

/-- A PPU tick changes the PPU and the NMI latch, and nothing else. -/
theorem State.ppuTick_frame (s : State) :
    s.ppuTick = { s with nmiPending := s.ppuTick.nmiPending, ppu := s.ppuTick.ppu } := rfl

/-! The APU. -/

/-- The frame sequencer leaves the DMC alone. -/
@[simp] theorem Apu.sequencerTick_dmc (u : Apu) : u.sequencerTick.dmc = u.dmc := by
  have hr : ∀ v : Apu, v.raiseFrameIrq.dmc = v.dmc := fun v => by unfold Apu.raiseFrameIrq; split <;> rfl
  simp only [Apu.sequencerTick]
  repeat' split
  all_goals first | rfl | (rw [hr]; rfl)

/-- In a tick the DMC does its own timer tick. -/
@[simp] theorem Apu.tickUnits_dmc (u : Apu) (pr : Params) : (u.tickUnits pr).dmc = u.dmc.tick pr.dmcLimit := by
  simp [Apu.tickUnits]

/-- The sample reader changes the DMC, the cost, and what a bus read changes. -/
theorem State.dmcReader_frame (s : State) :
    s.dmcReader = { s with
      nmiPending := s.dmcReader.nmiPending, pads := s.dmcReader.pads, draws := s.dmcReader.draws, cost := s.dmcReader.cost
      apu := { s.apu with frameIrq := s.dmcReader.apu.frameIrq, dmc := s.dmcReader.apu.dmc }
      ppu := { s.ppu with
        vblank := s.dmcReader.ppu.vblank, w := s.dmcReader.ppu.w, ioLatch := s.dmcReader.ppu.ioLatch
        readBuf := s.dmcReader.ppu.readBuf, v := s.dmcReader.ppu.v, nmiOut := s.dmcReader.ppu.nmiOut } } := by
  unfold State.dmcReader
  split
  · simp only [State.addCost]
    rw [State.cpuRead_frame]
  · rfl

/-- An APU tick changes the APU, the cost, and what the sample reader's bus read changes. -/
theorem State.apuTick_frame (s : State) :
    s.apuTick = { s with
      nmiPending := s.apuTick.nmiPending, pads := s.apuTick.pads, draws := s.apuTick.draws, cost := s.apuTick.cost
      apu := s.apuTick.apu
      ppu := { s.ppu with
        vblank := s.apuTick.ppu.vblank, w := s.apuTick.ppu.w, ioLatch := s.apuTick.ppu.ioLatch
        readBuf := s.apuTick.ppu.readBuf, v := s.apuTick.ppu.v, nmiOut := s.apuTick.ppu.nmiOut } } := by
  simp only [State.apuTick]
  rw [State.dmcReader_frame]

/-- A PPU register read leaves the NMI output up to date, and raises no NMI. -/
theorem State.ppuRegRead_nmi (s : State) (r : BitVec 3) (h : s.ppu.nmiOut = s.ppu.nmiLevel) :
    (s.ppuRegRead r).2.ppu.nmiOut = (s.ppuRegRead r).2.ppu.nmiLevel ∧ (s.ppuRegRead r).2.nmiPending = s.nmiPending := by
  unfold State.ppuRegRead
  split
  · exact ⟨rfl, by simp [State.readStatus, State.nmiEval, Ppu.nmiLevel]⟩
  · exact ⟨h, rfl⟩
  · exact ⟨h, rfl⟩
  · exact ⟨h, rfl⟩

/-- A bus read leaves the NMI output up to date, and raises no NMI. -/
theorem State.cpuRead_nmi (s : State) (a : Word) (h : s.ppu.nmiOut = s.ppu.nmiLevel) :
    (s.cpuRead a).2.ppu.nmiOut = (s.cpuRead a).2.ppu.nmiLevel ∧ (s.cpuRead a).2.nmiPending = s.nmiPending := by
  unfold State.cpuRead
  split
  · exact ⟨h, rfl⟩
  split
  · exact State.ppuRegRead_nmi s _ h
  split
  · exact ⟨h, rfl⟩
  split
  · exact ⟨h, rfl⟩
  split
  · rw [State.readPad_frame]; exact ⟨h, rfl⟩
  split
  · rw [State.readPad_frame]; exact ⟨h, rfl⟩
  split <;> exact ⟨h, rfl⟩

end Sys2Proof.Machine
end

