-- ==== Sys2Proof/Laws/Flags.lean ====
section
/-! SUPPORT. The bits of P after each flag operation, and the ALU's results and carries as plain arithmetic. -/

namespace Sys2Proof.Machine

/-! Bits of a byte. -/

/-- Setting bit `i` changes bit `i` and no other. -/
theorem getLsbD_setBit (d : Byte) {i j : Nat} (hj : j < 8) (b : Bool) :
    (setBit d i b).getLsbD j = if j = i then b else d.getLsbD j := by
  have hbit : (1#8 <<< i).getLsbD j = decide (j = i) := by
    simp only [BitVec.getLsbD_shiftLeft, BitVec.getLsbD_one, hj]
    by_cases h : j = i
    · simp [h]
    · by_cases h' : j < i
      · simp [h, h']
      · have : j - i ≠ 0 := by omega
        simp [h, this]
  unfold setBit
  split
  · rw [BitVec.getLsbD_or, hbit]; by_cases h : j = i <;> simp [*]
  · rw [BitVec.getLsbD_and, BitVec.getLsbD_not, hbit]; by_cases h : j = i <;> simp [*]

/-- `getLsbD_setBit` in the form simp brings goals to. -/
@[simp] theorem getElem_setBit (d : Byte) {i j : Nat} (hj : j < 8) (b : Bool) :
    (setBit d i b)[j] = if j = i then b else d[j] := by
  simpa [BitVec.getLsbD_eq_getElem hj] using getLsbD_setBit d (i := i) hj b

/-- The byte NMI and IRQ push: bit 4 clear, bit 5 set, the other bits of P. -/
theorem getLsbD_statusInt (p : Byte) {j : Nat} (hj : j < 8) :
    (statusInt p).getLsbD j = if j = 4 then false else if j = 5 then true else p.getLsbD j := by
  unfold statusInt
  interval_cases j <;> simp

/-- The byte PHP and BRK push: bits 4 and 5 set, the other bits of P. -/
theorem getLsbD_statusBrk (p : Byte) {j : Nat} (hj : j < 8) :
    (statusBrk p).getLsbD j = if j = 4 ∨ j = 5 then true else p.getLsbD j := by
  unfold statusBrk
  interval_cases j <;> simp

/-- What PLP and RTI load: bit 5 set, the other bits of the byte. -/
theorem getLsbD_statusPulled (d : Byte) {j : Nat} (hj : j < 8) :
    (statusPulled d).getLsbD j = if j = 5 then true else d.getLsbD j := by
  unfold statusPulled
  interval_cases j <;> simp

/-! Flags after SetZN. -/

@[simp] theorem State.setZN_flagZ (s : State) (d : Byte) : (s.setZN d).flagZ = (d == 0) := by
  simp [State.flagZ]

@[simp] theorem State.setZN_flagN (s : State) (d : Byte) : (s.setZN d).flagN = d.getLsbD 7 := by
  simp [State.flagN]

/-- SetZN writes Z and N and no other bit of P. -/
theorem State.getLsbD_setZN (s : State) (d : Byte) {j : Nat} (hj : j < 8) :
    (s.setZN d).p.getLsbD j = if j = 7 then d.getLsbD 7 else if j = 1 then (d == 0) else s.p.getLsbD j := by
  simp only [State.setZN, State.setN, State.setZ, getLsbD_setBit _ hj]

/-! The ALU (41_arith_logic.md R200). -/

/-- ADC's result is the sum modulo 256. -/
theorem wrap_preAdd (a m : Byte) (c : Bool) : wrap (preAdd a m c) = a + m + (BitVec.ofBool c).setWidth 8 := by
  apply BitVec.eq_of_toNat_eq
  cases c <;> simp [wrap, preAdd, BitVec.toNat_add]

/-- SBC's result is the difference modulo 256, the borrow being the complement of the carry. -/
theorem wrap_preSub (a m : Byte) (c : Bool) : wrap (preSub a m c) = a - m - (BitVec.ofBool (!c)).setWidth 8 := by
  apply BitVec.eq_of_toNat_eq
  have := m.isLt
  cases c <;> simp [wrap, preSub, BitVec.toNat_sub, BitVec.toNat_not] <;> omega

/-- A comparison's result is the difference modulo 256. -/
theorem wrap_preCmp (r m : Byte) : wrap (preCmp r m) = r - m := by
  apply BitVec.eq_of_toNat_eq
  have := m.isLt
  simp [wrap, preCmp, BitVec.toNat_sub, BitVec.toNat_not]
  omega

/-- A comparison's carry is set when the register is at least the operand. -/
theorem carryOf_preCmp (r m : Byte) : carryOf (preCmp r m) = decide (m.toNat ≤ r.toNat) := by
  have := m.isLt
  simp [carryOf, preCmp, BitVec.toNat_not]
  omega

/-- SBC's carry is set when there is no borrow. -/
theorem carryOf_preSub (a m : Byte) (c : Bool) : carryOf (preSub a m c) = decide (m.toNat + (!c).toNat ≤ a.toNat) := by
  have := m.isLt
  cases c <;> simp [carryOf, preSub, BitVec.toNat_not] <;> omega

/-- ASL's carry is bit 7 of the operand. -/
theorem carryOf_preAsl (m : Byte) : carryOf (preAsl m) = m.getLsbD 7 := by
  revert m; decide

/-- ROL's carry is bit 7 of the operand. -/
theorem carryOf_preRol (m : Byte) (c : Bool) : carryOf (preRol m c) = m.getLsbD 7 := by
  revert m c; decide

end Sys2Proof.Machine
end

