-- ==== Sys2Proof/Laws/Memory.lean ====
section
/-! SUPPORT. Memories in canonical form: every operation keeps the form and the bounds, and reads after writes. -/

namespace Sys2Proof.Machine

variable {n : Nat} {m : List (Nat × BitVec n)}

/-! The canonical form. -/

theorem Memory.sortedFrom_cons_iff {a b : Nat} {u : BitVec n} {rest : List (Nat × BitVec n)} :
    Memory.sortedFrom a ((b, u) :: rest) = true ↔ a ≤ b ∧ u ≠ 0 ∧ Memory.sortedFrom (b + 1) rest = true := by
  simp [Memory.sortedFrom, and_assoc]

theorem Memory.sortedFrom_mono {a b : Nat} (hab : a ≤ b) (h : Memory.sortedFrom b m = true) : Memory.sortedFrom a m = true := by
  cases m with
  | nil => rfl
  | cons c rest =>
    obtain ⟨c, u⟩ := c
    rw [Memory.sortedFrom_cons_iff] at h ⊢
    exact ⟨hab.trans h.1, h.2⟩

/-- Below the entries everything reads 0. -/
theorem Memory.read_below {a c : Nat} (h : Memory.sortedFrom a m = true) (hc : c < a) : Memory.read m c = 0 := by
  cases m with
  | nil => rfl
  | cons e rest =>
    obtain ⟨b, u⟩ := e
    rw [Memory.sortedFrom_cons_iff] at h
    have : c < b := by omega
    simp [Memory.read, this, this.ne]

theorem Memory.sortedFrom_cons {lo a : Nat} {v : BitVec n} (hlo : lo ≤ a) (h : Memory.sortedFrom (a + 1) m = true) :
    Memory.sortedFrom lo (Memory.cons a v m) = true := by
  unfold Memory.cons
  split
  · exact Memory.sortedFrom_mono (by omega) h
  · exact Memory.sortedFrom_cons_iff.2 ⟨hlo, ‹_›, h⟩

theorem Memory.sortedFrom_write {a lo : Nat} {v : BitVec n} (h : Memory.sortedFrom lo m = true) (ha : lo ≤ a) :
    Memory.sortedFrom lo (Memory.write m a v) = true := by
  induction m generalizing lo with
  | nil => exact Memory.sortedFrom_cons ha rfl
  | cons e rest ih =>
    obtain ⟨b, u⟩ := e
    have hs := Memory.sortedFrom_cons_iff.1 h
    unfold Memory.write
    split
    · subst_vars; exact Memory.sortedFrom_cons ha hs.2.2
    · split
      · exact Memory.sortedFrom_cons ha (Memory.sortedFrom_cons_iff.2 ⟨by omega, hs.2⟩)
      · exact Memory.sortedFrom_cons_iff.2 ⟨hs.1, hs.2.1, ih hs.2.2 (by omega)⟩

/-- A write keeps the canonical form. -/
theorem Memory.wf_write (a : Nat) (v : BitVec n) (h : Memory.wf m = true) : Memory.wf (Memory.write m a v) = true :=
  Memory.sortedFrom_write h (Nat.zero_le a)

/-- Writing a list of values keeps the canonical form. -/
theorem Memory.wf_writeAll (a : Nat) (vs : List (BitVec n)) (h : Memory.wf m = true) :
    Memory.wf (Memory.writeAll m a vs) = true := by
  induction vs generalizing m a with
  | nil => exact h
  | cons v vs ih => exact ih _ (Memory.wf_write a v h)

theorem Memory.sortedFrom_ofList (a : Nat) (vs : List (BitVec n)) : Memory.sortedFrom a (Memory.ofList a vs) = true := by
  induction vs generalizing a with
  | nil => rfl
  | cons v vs ih => exact Memory.sortedFrom_cons le_rfl (ih (a + 1))

/-- A memory made of a list is in canonical form. -/
theorem Memory.wf_ofList (a : Nat) (vs : List (BitVec n)) : Memory.wf (Memory.ofList a vs) = true :=
  Memory.sortedFrom_mono (Nat.zero_le a) (Memory.sortedFrom_ofList a vs)

/-! The bounds. -/

theorem Memory.within_cons {size a : Nat} {v : BitVec n} (ha : a < size) (h : Memory.within size m = true) :
    Memory.within size (Memory.cons a v m) = true := by
  unfold Memory.cons
  split
  · exact h
  · simpa [Memory.within, ha] using h

/-- A write below the size stays within the size. -/
theorem Memory.within_write {size a : Nat} {v : BitVec n} (ha : a < size) (h : Memory.within size m = true) :
    Memory.within size (Memory.write m a v) = true := by
  induction m with
  | nil => exact Memory.within_cons ha h
  | cons e rest ih =>
    obtain ⟨b, u⟩ := e
    have hs : b < size ∧ Memory.within size rest = true := by simpa [Memory.within] using h
    unfold Memory.write
    split
    · exact Memory.within_cons ha hs.2
    · split
      · exact Memory.within_cons ha h
      · simpa [Memory.within, hs.1] using ih hs.2

/-- Writing a list below the size stays within the size. -/
theorem Memory.within_writeAll {size a : Nat} {vs : List (BitVec n)} (ha : a + vs.length ≤ size)
    (h : Memory.within size m = true) : Memory.within size (Memory.writeAll m a vs) = true := by
  induction vs generalizing m a with
  | nil => exact h
  | cons v vs ih =>
    rw [List.length_cons] at ha
    exact ih (by omega) (Memory.within_write (by omega) h)

/-- A memory made of a list stays below the list's end. -/
theorem Memory.within_ofList {size a : Nat} {vs : List (BitVec n)} (ha : a + vs.length ≤ size) :
    Memory.within size (Memory.ofList a vs) = true := by
  induction vs generalizing a with
  | nil => rfl
  | cons v vs ih =>
    rw [List.length_cons] at ha
    exact Memory.within_cons (by omega) (ih (by omega))

/-! Reads. -/

theorem Memory.read_cons_same {a : Nat} {v : BitVec n} (h : Memory.sortedFrom (a + 1) m = true) :
    Memory.read (Memory.cons a v m) a = v := by
  unfold Memory.cons
  split
  · rw [Memory.read_below h (by omega)]; exact Eq.symm ‹_›
  · simp [Memory.read]

theorem Memory.read_cons_other {a c : Nat} {v : BitVec n} (h : Memory.sortedFrom (a + 1) m = true) (hc : c ≠ a) :
    Memory.read (Memory.cons a v m) c = Memory.read m c := by
  unfold Memory.cons
  split
  · rfl
  · by_cases hlt : c < a
    · simp [Memory.read, hc, hlt, Memory.read_below h (c := c) (by omega)]
    · simp [Memory.read, hc, hlt]

theorem Memory.read_write_sorted {a c lo : Nat} {v : BitVec n} (h : Memory.sortedFrom lo m = true) :
    Memory.read (Memory.write m a v) c = if c = a then v else Memory.read m c := by
  induction m generalizing lo with
  | nil =>
    by_cases hc : c = a
    · simp [Memory.write, hc, Memory.read_cons_same (m := ([] : List (Nat × BitVec n))) rfl]
    · simp [Memory.write, hc, Memory.read_cons_other (m := ([] : List (Nat × BitVec n))) rfl hc]
  | cons e rest ih =>
    obtain ⟨b, u⟩ := e
    have hs := Memory.sortedFrom_cons_iff.1 h
    unfold Memory.write
    split
    · rename_i hab
      subst hab
      by_cases hc : c = a
      · simp [hc, Memory.read_cons_same hs.2.2]
      · rw [Memory.read_cons_other hs.2.2 hc, if_neg hc]
        by_cases hlt : c < a
        · simp [Memory.read, hc, hlt, Memory.read_below hs.2.2 (c := c) (by omega)]
        · simp [Memory.read, hc, hlt]
    · rename_i hab
      split
      · have hs' : Memory.sortedFrom (a + 1) ((b, u) :: rest) = true :=
          Memory.sortedFrom_cons_iff.2 ⟨by omega, hs.2⟩
        by_cases hc : c = a
        · simp [hc, Memory.read_cons_same hs']
        · simp [hc, Memory.read_cons_other hs' hc]
      · by_cases hcb : c = b
        · subst hcb
          have : ¬ c = a := by omega
          simp [Memory.read, this]
        · by_cases hlt : c < b
          · have : ¬ c = a := by omega
            simp [Memory.read, hcb, hlt, this]
          · simp only [Memory.read, hcb, hlt, if_false]
            exact ih hs.2.2

/-- A read after a write to the same address gives the value written. -/
theorem Memory.read_write_same (a : Nat) (v : BitVec n) (h : Memory.wf m = true) : Memory.read (Memory.write m a v) a = v := by
  rw [Memory.read_write_sorted h, if_pos rfl]

/-- A write leaves every other address alone. -/
theorem Memory.read_write_other {a c : Nat} (v : BitVec n) (h : Memory.wf m = true) (hc : c ≠ a) :
    Memory.read (Memory.write m a v) c = Memory.read m c := by
  rw [Memory.read_write_sorted h, if_neg hc]

/-- A read after writing a list of values from `a` on. -/
theorem Memory.read_writeAll (a c : Nat) (vs : List (BitVec n)) (h : Memory.wf m = true) :
    Memory.read (Memory.writeAll m a vs) c = if a ≤ c ∧ c < a + vs.length then vs.getD (c - a) 0 else Memory.read m c := by
  induction vs generalizing m a with
  | nil => simp [Memory.writeAll]
  | cons v vs ih =>
    rw [Memory.writeAll, ih _ (Memory.wf_write _ _ h)]
    by_cases h1 : c = a
    · subst h1; simp [Memory.read_write_same _ _ h]
    rw [Memory.read_write_other _ h h1]
    by_cases h2 : a + 1 ≤ c ∧ c < a + 1 + vs.length
    · rw [if_pos h2, if_pos ⟨by omega, by simp; omega⟩]
      obtain ⟨j, rfl⟩ : ∃ j, c = a + 1 + j := ⟨c - (a + 1), by omega⟩
      rw [show a + 1 + j - (a + 1) = j by omega, show a + 1 + j - a = j + 1 by omega]
      simp
    · rw [if_neg h2, if_neg (by simp; omega)]

/-- In an empty memory everything reads 0. -/
@[simp] theorem Memory.read_nil (a : Nat) : Memory.read ([] : List (Nat × BitVec n)) a = 0 := rfl

/-- The byte at `a + i` of a memory made of a list. -/
theorem Memory.read_ofList (a i : Nat) (vs : List (BitVec n)) : Memory.read (Memory.ofList a vs) (a + i) = vs.getD i 0 := by
  induction vs generalizing a i with
  | nil => simp [Memory.ofList]
  | cons v vs ih =>
    have hs := Memory.sortedFrom_ofList (a + 1) vs
    cases i with
    | zero => simpa [Memory.ofList] using Memory.read_cons_same hs
    | succ i =>
      rw [Memory.ofList, Memory.read_cons_other hs (by omega)]
      have := ih (a + 1) i
      rw [show a + 1 + i = a + (i + 1) by omega] at this
      simpa using this

end Sys2Proof.Machine
end

