-- ==== Sys2Proof/Laws/Ops.lean ====
section
/-! SUPPORT. One lemma for each shared operation of Machine/Ops.lean and Machine/Operands.lean: everything it can do. -/

namespace Sys2Proof.Machine

/-! Addressing modes. -/

/-- A pointer in the zero page is two RAM bytes, and reading it changes nothing. -/
theorem State.zpPointer_eq (s : State) (b : Byte) :
    s.zpPointer b = (word (Memory.read s.ram (b + 1).toNat) (Memory.read s.ram b.toNat), s) := by
  simp only [State.zpPointer, State.readPair, State.cpuRead_of_ram (zeroPage_lt b), State.cpuRead_of_ram (zeroPage_lt (b + 1)),
    ramIndex_zeroPage]

/-- Computing an effective address changes nothing: its only reads are in the zero page. -/
@[simp] theorem State.resolve_state (s : State) (m : Addr) : (s.resolve m).2.2 = s := by
  cases m <;> simp [State.resolve, State.zpPointer_eq]

/-- A memory operand is the byte at the effective address, read once. -/
theorem State.operand_mem (s : State) (m : Addr) :
    s.operand (.mem m) = ((s.cpuRead (s.resolve m).1).1, (s.resolve m).2.1, (s.cpuRead (s.resolve m).1).2) := by
  simp [State.operand]

/-- The machine after an operand's reads: the machine itself, or the machine after the read at the effective address. -/
theorem State.operand_state (s : State) (m : Src) : (s.operand m).2.2 = s ∨ ∃ w, (s.operand m).2.2 = (s.cpuRead w).2 := by
  cases m with
  | imm b => exact .inl rfl
  | mem m => exact .inr ⟨_, by rw [State.operand_mem]⟩

/-- A store writes at the effective address of the machine as it is, then charges and advances. -/
theorem State.storing_eq (s : State) (i : Instr) (m : Addr) (d : Byte) :
    s.storing i m d = ((s.cpuWrite (s.resolve m).1 d).chargeCross i (s.resolve m).2.1).advance (1 + m.size) := by
  simp only [State.storing, State.resolve_state]

/-- A read-modify-write instruction reads once and writes once, at the same effective address. -/
theorem State.modifying_eq (s : State) (i : Instr) (m : Addr) (f : Byte → Bool → Byte) (g : Byte → Byte → State → State) :
    s.modifying i m f g =
      ((g (s.cpuRead (s.resolve m).1).1 (f (s.cpuRead (s.resolve m).1).1 s.flagC)
        ((s.cpuRead (s.resolve m).1).2.cpuWrite (s.resolve m).1 (f (s.cpuRead (s.resolve m).1).1 s.flagC))).chargeCross i
          (s.resolve m).2.1).advance (1 + m.size) := by
  simp only [State.modifying, State.resolve_state, State.flagC, State.cpuRead_p]

/-! The stack. -/

/-- A push writes one byte of page 1 and moves SP down by one. -/
theorem State.push_eq (s : State) (d : Byte) :
    s.push d = { s with sp := s.sp - 1, ram := Memory.write s.ram (256 + s.pushSp.toNat) d } := by
  simp [State.push, State.cpuWrite_of_ram (stackAddr_lt _), ramIndex_stackAddr, State.setSp]

/-- A pull reads one byte of page 1 and moves SP up by one. -/
theorem State.pull_eq (s : State) : s.pull = (Memory.read s.ram (256 + s.pullSp.toNat), { s with sp := s.sp + 1 }) := by
  simp [State.pull, State.cpuRead_of_ram (stackAddr_lt _), ramIndex_stackAddr, State.setSp]

@[simp] theorem State.push_a (s : State) (d : Byte) : (s.push d).a = s.a := by rw [State.push_eq]
@[simp] theorem State.push_x (s : State) (d : Byte) : (s.push d).x = s.x := by rw [State.push_eq]
@[simp] theorem State.push_y (s : State) (d : Byte) : (s.push d).y = s.y := by rw [State.push_eq]
@[simp] theorem State.push_p (s : State) (d : Byte) : (s.push d).p = s.p := by rw [State.push_eq]
@[simp] theorem State.push_pc (s : State) (d : Byte) : (s.push d).pc = s.pc := by rw [State.push_eq]
@[simp] theorem State.push_cart (s : State) (d : Byte) : (s.push d).cart = s.cart := by rw [State.push_eq]
@[simp] theorem State.push_ppu (s : State) (d : Byte) : (s.push d).ppu = s.ppu := by rw [State.push_eq]
@[simp] theorem State.push_apu (s : State) (d : Byte) : (s.push d).apu = s.apu := by rw [State.push_eq]
@[simp] theorem State.push_pads (s : State) (d : Byte) : (s.push d).pads = s.pads := by rw [State.push_eq]
@[simp] theorem State.push_params (s : State) (d : Byte) : (s.push d).params = s.params := by rw [State.push_eq]
@[simp] theorem State.push_sched (s : State) (d : Byte) : (s.push d).sched = s.sched := by rw [State.push_eq]
@[simp] theorem State.push_cost (s : State) (d : Byte) : (s.push d).cost = s.cost := by rw [State.push_eq]
@[simp] theorem State.push_cycles (s : State) (d : Byte) : (s.push d).cycles = s.cycles := by rw [State.push_eq]

@[simp] theorem State.push_sp (s : State) (d : Byte) : (s.push d).sp = s.sp - 1 := by rw [State.push_eq]

@[simp] theorem State.push_ram (s : State) (d : Byte) : (s.push d).ram = Memory.write s.ram (256 + s.pushSp.toNat) d := by
  rw [State.push_eq]

/-- After a push, the next push is one byte lower. -/
@[simp] theorem State.push_pushSp (s : State) (d : Byte) : (s.push d).pushSp = s.pushSp - 1 := by
  unfold State.pushSp
  rw [State.push_params, State.push_sp]
  cases s.params.stackOrder <;> rfl

/-- After a push, a pull reads the byte pushed. -/
@[simp] theorem State.push_pullSp (s : State) (d : Byte) : (s.push d).pullSp = s.pushSp := by
  unfold State.pushSp State.pullSp
  rw [State.push_params, State.push_sp]
  cases s.params.stackOrder <;> simp

/-- A pull after a push gives the byte back and restores SP (10_state.md R41). -/
theorem State.pull_push (s : State) (d : Byte) (h : Memory.wf s.ram = true) :
    (s.push d).pull = (d, { (s.push d) with sp := s.sp }) := by
  rw [State.pull_eq]
  simp [Memory.read_write_same, h]

/-- A 16-bit read from 0x4020 on is two cartridge bytes, and changes nothing. -/
theorem State.read16_cart (s : State) {w : Word} (h : 0x4020 ≤ w.toNat) (h' : w.toNat < 0xFFFF) :
    s.read16 w = (word (s.cart.read s.params (w + 1)) (s.cart.read s.params w), s) := by
  have h1 : (w + 1).toNat = w.toNat + 1 := by
    rw [BitVec.toNat_add]
    have : (1 : Word).toNat = 1 := rfl
    omega
  simp only [State.read16, State.readPair, State.cpuRead_of_cart h, State.cpuRead_of_cart (w := w + 1) (by omega)]

/-- What BRK, NMI and IRQ share: three pushes, I, and PC from the vector; nothing else changes. -/
theorem State.takeInterrupt_eq (s : State) (ret : Word) (status : Byte) {vec : Word} (h : 0x4020 ≤ vec.toNat)
    (h' : vec.toNat < 0xFFFF) :
    s.takeInterrupt ret status vec =
      { (s.push16 ret).push status with
        p := setBit s.p 2 true
        pc := word (s.cart.read s.params (vec + 1)) (s.cart.read s.params vec) } := by
  simp only [State.takeInterrupt, State.read16_cart _ h h', State.push16, State.push_eq, State.setI, State.setPc]

end Sys2Proof.Machine
end

