-- ==== Sys2Proof/Laws/Step.lean ====
section
/-! SUPPORT. What an instruction and a step can do, once: a property that the named operations keep is kept by every instruction, by
the interrupt entries, by the catch-up and by the step. -/

namespace Sys2Proof.Machine

variable {P : State → Prop} {s t : State}

/-- A property kept by everything an instruction does: changing A, X, Y, SP and PC freely, adding to the cost, changing P but for
clearing its bit 5, reading the bus and writing it. -/
structure Kept (P : State → Prop) : Prop where
  cpu : ∀ (s : State) (a x y sp p : Byte) (pc : Word) (cost : Nat),
    (p.getLsbD 5 = s.p.getLsbD 5 ∨ p.getLsbD 5 = true) → s.cost ≤ cost → P s →
      P { s with a := a, x := x, y := y, sp := sp, p := p, pc := pc, cost := cost }
  read : ∀ (s : State) (w : Word), P s → P (s.cpuRead w).2
  write : ∀ (s : State) (w : Word) (d : Byte), P s → P (s.cpuWrite w d)

/-- A property kept by everything a step does besides: setting the cost, dropping the NMI latch, counting cycles, and the devices'
ticks. -/
structure KeptByStep (P : State → Prop) : Prop extends Kept P where
  cost : ∀ (s : State) (n : Nat), P s → P { s with cost := n }
  nmi : ∀ s : State, P s → P { s with nmiPending := false }
  cycles : ∀ (s : State) (n : Nat), P s → P { s with cycles := n }
  ppu : ∀ s : State, P s → P s.ppuTick
  apu : ∀ s : State, P s → P s.apuTick

/-! The named operations. -/

theorem Kept.setA (h : Kept P) (d : Byte) (hs : P s) : P (s.setA d) := h.cpu s d s.x s.y s.sp s.p s.pc s.cost (.inl rfl) le_rfl hs
theorem Kept.setX (h : Kept P) (d : Byte) (hs : P s) : P (s.setX d) := h.cpu s s.a d s.y s.sp s.p s.pc s.cost (.inl rfl) le_rfl hs
theorem Kept.setY (h : Kept P) (d : Byte) (hs : P s) : P (s.setY d) := h.cpu s s.a s.x d s.sp s.p s.pc s.cost (.inl rfl) le_rfl hs
theorem Kept.setSp (h : Kept P) (d : Byte) (hs : P s) : P (s.setSp d) := h.cpu s s.a s.x s.y d s.p s.pc s.cost (.inl rfl) le_rfl hs
theorem Kept.setPc (h : Kept P) (w : Word) (hs : P s) : P (s.setPc w) := h.cpu s s.a s.x s.y s.sp s.p w s.cost (.inl rfl) le_rfl hs

/-- Setting a bit of P other than bit 5 keeps the property. -/
theorem Kept.setBit (h : Kept P) {i : Nat} (b : Bool) (hi : i ≠ 5) (hs : P s) : P { s with p := setBit s.p i b } :=
  h.cpu s s.a s.x s.y s.sp _ s.pc s.cost (.inl (by rw [getLsbD_setBit _ (by omega), if_neg hi.symm])) le_rfl hs

theorem Kept.setC (h : Kept P) (b : Bool) (hs : P s) : P (s.setC b) := h.setBit b (by decide) hs
theorem Kept.setZ (h : Kept P) (b : Bool) (hs : P s) : P (s.setZ b) := h.setBit b (by decide) hs
theorem Kept.setI (h : Kept P) (b : Bool) (hs : P s) : P (s.setI b) := h.setBit b (by decide) hs
theorem Kept.setD (h : Kept P) (b : Bool) (hs : P s) : P (s.setD b) := h.setBit b (by decide) hs
theorem Kept.setV (h : Kept P) (b : Bool) (hs : P s) : P (s.setV b) := h.setBit b (by decide) hs
theorem Kept.setN (h : Kept P) (b : Bool) (hs : P s) : P (s.setN b) := h.setBit b (by decide) hs
theorem Kept.setZN (h : Kept P) (d : Byte) (hs : P s) : P (s.setZN d) := h.setN _ (h.setZ _ hs)

/-- Loading P from the stack keeps the property, because bit 5 is forced to 1. -/
theorem Kept.setPulled (h : Kept P) (d : Byte) (hs : P s) : P (s.setP (statusPulled d)) :=
  h.cpu s s.a s.x s.y s.sp _ s.pc s.cost (.inr (by rw [getLsbD_statusPulled _ (by omega), if_pos rfl])) le_rfl hs

theorem Kept.addCost (h : Kept P) (n : Nat) (hs : P s) : P (s.addCost n) :=
  h.cpu s s.a s.x s.y s.sp s.p s.pc _ (.inl rfl) (Nat.le_add_right _ _) hs
theorem Kept.chargeCross (h : Kept P) (i : Instr) (c : Bool) (hs : P s) : P (s.chargeCross i c) := h.addCost _ hs
theorem Kept.advance (h : Kept P) (n : Nat) (hs : P s) : P (s.advance n) := h.setPc _ hs

theorem Kept.operand (h : Kept P) (m : Src) (hs : P s) : P (s.operand m).2.2 := by
  rcases State.operand_state s m with h' | ⟨w, h'⟩ <;> rw [h']
  · exact hs
  · exact h.read s w hs

theorem Kept.readPair (h : Kept P) (lo hi : Word) (hs : P s) : P (s.readPair lo hi).2 := h.read _ _ (h.read _ _ hs)

theorem Kept.push (h : Kept P) (d : Byte) (hs : P s) : P (s.push d) := h.setSp _ (h.write _ _ _ hs)
theorem Kept.pull (h : Kept P) (hs : P s) : P s.pull.2 := h.setSp _ (h.read _ _ hs)
theorem Kept.push16 (h : Kept P) (w : Word) (hs : P s) : P (s.push16 w) := h.push _ (h.push _ hs)
theorem Kept.pull16 (h : Kept P) (hs : P s) : P s.pull16.2 := h.pull (h.pull hs)

theorem Kept.takeInterrupt (h : Kept P) (ret : Word) (status : Byte) (vec : Word) (hs : P s) :
    P (s.takeInterrupt ret status vec) :=
  h.setPc _ (h.readPair _ _ (h.setI _ (h.push _ (h.push16 _ hs))))

theorem Kept.returnFromInterrupt (h : Kept P) (hs : P s) : P s.returnFromInterrupt :=
  h.setPc _ (h.pull16 (h.setPulled _ (h.pull hs)))

/-! The shapes of instructions. -/

theorem Kept.reading (h : Kept P) (i : Instr) (m : Src) {f : Byte → State → State} (hf : ∀ d u, P u → P (f d u)) (hs : P s) :
    P (s.reading i m f) :=
  h.advance _ (h.chargeCross _ _ (hf _ _ (h.operand m hs)))

theorem Kept.storing (h : Kept P) (i : Instr) (m : Addr) (d : Byte) (hs : P s) : P (s.storing i m d) := by
  rw [State.storing_eq]
  exact h.advance _ (h.chargeCross _ _ (h.write _ _ _ hs))

theorem Kept.modifying (h : Kept P) (i : Instr) (m : Addr) (f : Byte → Bool → Byte) {g : Byte → Byte → State → State}
    (hg : ∀ d r u, P u → P (g d r u)) (hs : P s) : P (s.modifying i m f g) := by
  rw [State.modifying_eq]
  exact h.advance _ (h.chargeCross _ _ (hg _ _ _ (h.write _ _ _ (h.read _ _ hs))))

theorem Kept.shifting (h : Kept P) (i : Instr) (m : Rmw) (f : Byte → Bool → Byte) {g : Byte → Byte → State → State}
    (hg : ∀ d r u, P u → P (g d r u)) (hs : P s) : P (s.shifting i m f g) := by
  cases m with
  | acc => exact h.advance _ (hg _ _ _ (h.setA _ hs))
  | mem m => exact h.modifying i m f hg hs

theorem Kept.branching (h : Kept P) (b : Byte) (taken : Bool) (hs : P s) : P (s.branching b taken) := by
  unfold State.branching
  split
  · exact h.setPc _ (h.addCost _ hs)
  · exact h.advance _ hs

/-! Instructions and steps. -/

/-- Every instruction but the unassigned bytes answers a next state, in which a kept property still holds. -/
theorem exec_next (h : Kept P) (i : Instr) (hi : ∀ op, i ≠ .unassigned op) (hs : P s) : ∃ t, exec i s = .next t ∧ P t := by
  cases i with
  | unassigned op => exact absurd rfl (hi op)
  | lda m => exact ⟨_, rfl, h.reading _ _ (fun _ _ hu => h.setZN _ (h.setA _ hu)) hs⟩
  | ldx m => exact ⟨_, rfl, h.reading _ _ (fun _ _ hu => h.setZN _ (h.setX _ hu)) hs⟩
  | ldy m => exact ⟨_, rfl, h.reading _ _ (fun _ _ hu => h.setZN _ (h.setY _ hu)) hs⟩
  | sta m => exact ⟨_, rfl, h.storing _ _ _ hs⟩
  | stx m => exact ⟨_, rfl, h.storing _ _ _ hs⟩
  | sty m => exact ⟨_, rfl, h.storing _ _ _ hs⟩
  | tax => exact ⟨_, rfl, h.advance _ (h.setZN _ (h.setX _ hs))⟩
  | tay => exact ⟨_, rfl, h.advance _ (h.setZN _ (h.setY _ hs))⟩
  | txa => exact ⟨_, rfl, h.advance _ (h.setZN _ (h.setA _ hs))⟩
  | tya => exact ⟨_, rfl, h.advance _ (h.setZN _ (h.setA _ hs))⟩
  | tsx => exact ⟨_, rfl, h.advance _ (h.setZN _ (h.setX _ hs))⟩
  | txs => exact ⟨_, rfl, h.advance _ (h.setSp _ hs)⟩
  | pha => exact ⟨_, rfl, h.advance _ (h.push _ hs)⟩
  | php => exact ⟨_, rfl, h.advance _ (h.push _ hs)⟩
  | pla => exact ⟨_, rfl, h.advance _ (h.setZN _ (h.setA _ (h.pull hs)))⟩
  | plp => exact ⟨_, rfl, h.advance _ (h.setPulled _ (h.pull hs))⟩
  | adc m => exact ⟨_, rfl, h.reading _ _ (fun _ _ hu => h.setZN _ (h.setA _ (h.setC _ (h.setV _ hu)))) hs⟩
  | sbc m => exact ⟨_, rfl, h.reading _ _ (fun _ _ hu => h.setZN _ (h.setA _ (h.setC _ (h.setV _ hu)))) hs⟩
  | and m => exact ⟨_, rfl, h.reading _ _ (fun _ _ hu => h.setZN _ (h.setA _ hu)) hs⟩
  | ora m => exact ⟨_, rfl, h.reading _ _ (fun _ _ hu => h.setZN _ (h.setA _ hu)) hs⟩
  | eor m => exact ⟨_, rfl, h.reading _ _ (fun _ _ hu => h.setZN _ (h.setA _ hu)) hs⟩
  | cmp m => exact ⟨_, rfl, h.reading _ _ (fun _ _ hu => h.setZN _ (h.setC _ hu)) hs⟩
  | cpx m => exact ⟨_, rfl, h.reading _ _ (fun _ _ hu => h.setZN _ (h.setC _ hu)) hs⟩
  | cpy m => exact ⟨_, rfl, h.reading _ _ (fun _ _ hu => h.setZN _ (h.setC _ hu)) hs⟩
  | bit m => exact ⟨_, rfl, h.reading _ _ (fun _ _ hu => h.setV _ (h.setN _ (h.setZ _ hu))) hs⟩
  | inc m => exact ⟨_, rfl, h.modifying _ _ _ (fun _ _ _ hu => h.setZN _ hu) hs⟩
  | dec m => exact ⟨_, rfl, h.modifying _ _ _ (fun _ _ _ hu => h.setZN _ hu) hs⟩
  | inx => exact ⟨_, rfl, h.advance _ (h.setZN _ (h.setX _ hs))⟩
  | iny => exact ⟨_, rfl, h.advance _ (h.setZN _ (h.setY _ hs))⟩
  | dex => exact ⟨_, rfl, h.advance _ (h.setZN _ (h.setX _ hs))⟩
  | dey => exact ⟨_, rfl, h.advance _ (h.setZN _ (h.setY _ hs))⟩
  | asl m => exact ⟨_, rfl, h.shifting _ _ _ (fun _ _ _ hu => h.setZN _ (h.setC _ hu)) hs⟩
  | lsr m => exact ⟨_, rfl, h.shifting _ _ _ (fun _ _ _ hu => h.setZN _ (h.setC _ hu)) hs⟩
  | rol m => exact ⟨_, rfl, h.shifting _ _ _ (fun _ _ _ hu => h.setZN _ (h.setC _ hu)) hs⟩
  | ror m => exact ⟨_, rfl, h.shifting _ _ _ (fun _ _ _ hu => h.setZN _ (h.setC _ hu)) hs⟩
  | jmp t =>
    refine ⟨_, rfl, h.setPc _ ?_⟩
    cases t with
    | abs w => exact hs
    | ind w => exact h.readPair _ _ hs
  | jsr w => exact ⟨_, rfl, h.setPc _ (h.push16 _ hs)⟩
  | rts => exact ⟨_, rfl, h.setPc _ (h.pull16 hs)⟩
  | bcc b => exact ⟨_, rfl, h.branching _ _ hs⟩
  | bcs b => exact ⟨_, rfl, h.branching _ _ hs⟩
  | beq b => exact ⟨_, rfl, h.branching _ _ hs⟩
  | bmi b => exact ⟨_, rfl, h.branching _ _ hs⟩
  | bne b => exact ⟨_, rfl, h.branching _ _ hs⟩
  | bpl b => exact ⟨_, rfl, h.branching _ _ hs⟩
  | bvc b => exact ⟨_, rfl, h.branching _ _ hs⟩
  | bvs b => exact ⟨_, rfl, h.branching _ _ hs⟩
  | brk => exact ⟨_, rfl, h.takeInterrupt _ _ _ hs⟩
  | rti => exact ⟨_, rfl, h.returnFromInterrupt hs⟩
  | clc => exact ⟨_, rfl, h.advance _ (h.setC _ hs)⟩
  | sec => exact ⟨_, rfl, h.advance _ (h.setC _ hs)⟩
  | cli => exact ⟨_, rfl, h.advance _ (h.setI _ hs)⟩
  | sei => exact ⟨_, rfl, h.advance _ (h.setI _ hs)⟩
  | cld => exact ⟨_, rfl, h.advance _ (h.setD _ hs)⟩
  | sed => exact ⟨_, rfl, h.advance _ (h.setD _ hs)⟩
  | clv => exact ⟨_, rfl, h.advance _ (h.setV _ hs)⟩
  | nop => exact ⟨_, rfl, h.advance _ hs⟩

/-- A property that everything an instruction does keeps is kept by every instruction that answers a next state. -/
theorem exec_keeps (h : Kept P) {i : Instr} (hs : P s) (he : exec i s = .next t) : P t := by
  by_cases hi : ∀ op, i ≠ .unassigned op
  · obtain ⟨u, hu, hp⟩ := exec_next h i hi hs
    rw [hu] at he
    cases he
    exact hp
  · simp only [not_forall, not_not] at hi
    obtain ⟨op, rfl⟩ := hi
    cases he

theorem Kept.fetch (h : Kept P) (hs : P s) : P s.fetch.2 := by
  simp only [State.fetch]
  split
  · exact h.read _ _ hs
  · exact h.read _ _ (h.read _ _ hs)
  · exact h.read _ _ (h.read _ _ (h.read _ _ hs))

/-- What the CPU part of a step can do. -/
theorem cpuPart_keeps (h : KeptByStep P) (hs : P s) (he : s.cpuPart = .next t) : P t := by
  unfold State.cpuPart at he
  split at he
  · cases he
    exact h.cost _ 7 (h.toKept.takeInterrupt s.pc (statusInt s.p) 0xFFFA (h.nmi s hs))
  · cases he
    exact h.cost _ 7 (h.toKept.takeInterrupt s.pc (statusInt s.p) 0xFFFE hs)
  · exact exec_keeps h.toKept (h.cost _ _ (h.toKept.fetch hs)) he

theorem deviceCycle_keeps (h : KeptByStep P) (hs : P s) : P s.deviceCycle := h.apu _ (h.ppu _ (h.ppu _ (h.ppu _ hs)))

theorem catchUpLoop_keeps (h : KeptByStep P) {fuel k : Nat} (hs : P s) (he : State.catchUpLoop fuel k s = some t) : P t := by
  induction fuel generalizing k s with
  | zero =>
    unfold State.catchUpLoop at he
    split at he
    · cases he
    · cases he; exact hs
  | succ fuel ih =>
    unfold State.catchUpLoop at he
    split at he
    · exact ih (deviceCycle_keeps h hs) he
    · cases he; exact hs

theorem catchUp_keeps (h : KeptByStep P) (hs : P s) (he : s.catchUp = .next t) : P t := by
  unfold State.catchUp at he
  split at he
  · cases he
  · cases he
    exact h.cycles _ _ (catchUpLoop_keeps h hs ‹_›)

/-- A property that everything a step does keeps is kept by every step. -/
theorem step_keeps (h : KeptByStep P) (hs : P s) (he : step s = .next t) : P t := by
  unfold step at he
  split at he
  · cases he
  · split at he
    · unfold thenCatchUp at he
      split at he
      · exact catchUp_keeps h (cpuPart_keeps h hs ‹_›) he
      · cases he
      · cases he
    · cases he

end Sys2Proof.Machine
end

