-- ==== Sys2Proof/Laws/Cycles.lean ====
section
/-! SUPPORT. Counting cycles: every step adds its cost, and how fast the DMC can make the catch-up longer. -/

namespace Sys2Proof.Machine

variable {s t : State}

/-! A step adds its cost. -/

/-- An instruction's accesses change neither the cycle count nor the scheduler. -/
theorem kept_cycles (c : Nat) (sc : Sched) : Kept fun u : State => u.cycles = c ∧ u.sched = sc where
  cpu := fun _ _ _ _ _ _ _ _ _ _ h => h
  read := fun s w h => by simpa using h
  write := fun s w d h => by simpa using h

/-- A cycle of the devices changes neither the cycle count nor the scheduler. -/
theorem State.deviceCycle_cycles (s : State) : s.deviceCycle.cycles = s.cycles ∧ s.deviceCycle.sched = s.sched := by
  have h : ∀ u : State, u.apuTick.cycles = u.cycles ∧ u.apuTick.sched = u.sched := fun u => by
    rw [State.apuTick_frame]; exact ⟨rfl, rfl⟩
  exact h _

/-- The catch-up's loop changes neither the cycle count nor the scheduler. -/
theorem State.catchUpLoop_cycles {fuel k : Nat} (h : State.catchUpLoop fuel k s = some t) :
    t.cycles = s.cycles ∧ t.sched = s.sched := by
  induction fuel generalizing k s with
  | zero =>
    unfold State.catchUpLoop at h
    split at h <;> cases h
    exact ⟨rfl, rfl⟩
  | succ n ih =>
    unfold State.catchUpLoop at h
    split at h
    · have := ih h
      rwa [(State.deviceCycle_cycles s).1, (State.deviceCycle_cycles s).2] at this
    · cases h; exact ⟨rfl, rfl⟩

/-- The catch-up adds the cost it ends with (60_exceptions.md R400). -/
theorem State.catchUp_cycles (h : s.catchUp = .next t) : t.cycles = s.cycles + t.cost ∧ t.sched = s.sched := by
  unfold State.catchUp at h
  split at h
  · cases h
  · rename_i u hu
    cases h
    obtain ⟨h1, h2⟩ := State.catchUpLoop_cycles hu
    exact ⟨by simp [h1], h2⟩

/-- Every step adds its cost to the cycle count and leaves the scheduler alone (60_exceptions.md R400). -/
theorem step_cycles (h : step s = .next t) : t.cycles = s.cycles + t.cost ∧ t.sched = s.sched := by
  unfold step at h
  split at h
  · cases h
  split at h
  · unfold thenCatchUp at h
    split at h
    · rename_i u hu
      have k := kept_cycles s.cycles s.sched
      have hk : u.cycles = s.cycles ∧ u.sched = s.sched := by
        unfold State.cpuPart at hu
        split at hu
        · cases hu
          exact k.takeInterrupt s.pc (statusInt s.p) 0xFFFA (s := { s with nmiPending := false }) ⟨rfl, rfl⟩
        · cases hu
          exact k.takeInterrupt s.pc (statusInt s.p) 0xFFFE ⟨rfl, rfl⟩
        · exact exec_keeps k (s := s.fetch.2.chargeBase s.fetch.1) (k.fetch (s := s) ⟨rfl, rfl⟩) hu
      have := State.catchUp_cycles h
      rwa [hk.1, hk.2] at this
    · cases h
    · cases h
  · cases h

/-- An instruction only adds to the cost. -/
theorem exec_cost {i : Instr} (h : exec i s = .next t) : s.cost ≤ t.cost := by
  have k : Kept fun u : State => s.cost ≤ u.cost :=
    { cpu := fun _ _ _ _ _ _ _ _ _ hc h => h.trans hc
      read := fun u w h => by simpa using h
      write := fun u w d h => by rw [State.cpuWrite_cost]; split <;> omega }
  exact exec_keeps k le_rfl h

/-! The DMC's pace (63_apu.md R671, R672, R677). -/

/-- Every rate lies in 54..428 (63_apu.md R627). -/
theorem Dmc.rate_bounds (u : Dmc) : 54 ≤ u.rate ∧ u.rate ≤ 428 := by
  have : ∀ i : BitVec 4, 54 ≤ rateTable.getD i.toNat 0 ∧ rateTable.getD i.toNat 0 ≤ 428 := by decide
  exact this u.rateIdx

/-- How many ticks pass before the tick that empties the shift register. -/
def Dmc.countdown (u : Dmc) : Nat := u.timer.toNat + u.rate * (u.bits - 1)

/-- A tick changes the output unit and, at the end of a byte, takes the buffered one; nothing else. -/
theorem Dmc.tick_frame (u : Dmc) (lim : DmcLimit) :
    u.tick lim = { u with
      timer := (u.tick lim).timer, level := (u.tick lim).level, shift := (u.tick lim).shift, bits := (u.tick lim).bits
      silence := (u.tick lim).silence, bufEmpty := (u.tick lim).bufEmpty } := by
  simp only [Dmc.tick, Dmc.outputClock]
  split
  · split
    · split <;> simp_all
    · rfl
  · rfl

/-- A tick either counts down, or ends a byte: it restarts the countdown and leaves the buffer empty. -/
theorem Dmc.tick_countdown (u : Dmc) (lim : DmcLimit) :
    (u.countdown ≠ 0 ∧ (u.tick lim).countdown + 1 = u.countdown ∧ (u.tick lim).bufEmpty = u.bufEmpty) ∨
    (u.countdown = 0 ∧ (u.tick lim).countdown + 1 = 8 * u.rate ∧ (u.tick lim).bufEmpty = true) := by
  have hr := u.rate_bounds
  have hw : (BitVec.ofNat 9 (u.rate - 1)).toNat = u.rate - 1 := by rw [BitVec.toNat_ofNat]; omega
  have hrate : (u.tick lim).rate = u.rate := by rw [Dmc.tick_frame]; rfl
  unfold Dmc.countdown
  rw [hrate]
  unfold Dmc.tick
  split
  · rename_i ht
    simp only [Dmc.outputClock, ht]
    split
    · rename_i hb
      refine .inr ⟨?_, ?_⟩
      · simp only [hb, Nat.mul_zero]; rfl
      · split <;> simp_all <;> omega
    · rename_i hb
      refine .inl ⟨?_, ?_, rfl⟩
      · have : 0 < u.rate * (u.bits - 1) := Nat.mul_pos (by omega) (by omega)
        omega
      · obtain ⟨m, hm⟩ : ∃ m, u.bits - 1 = m + 1 := ⟨u.bits - 2, by omega⟩
        simp only [hm, hw, Nat.add_sub_cancel, Nat.mul_add, Nat.mul_one]
        simp; omega
  · rename_i ht
    have h0 : u.timer.toNat ≠ 0 := fun h' => ht (BitVec.eq_of_toNat_eq (by simpa using h'))
    have : (u.timer - 1).toNat = u.timer.toNat - 1 := by
      have := u.timer.isLt
      rw [BitVec.toNat_sub]; simp; omega
    refine .inl ⟨by omega, ?_, rfl⟩
    simp only [this]
    omega

/-- Taking a byte fills the buffer, moves the reader on, and changes nothing else. -/
theorem Dmc.takeByte_frame (u : Dmc) (b : Byte) :
    u.takeByte b = { u with
      buffer := b, bufEmpty := false, curAddr := (u.takeByte b).curAddr, remaining := (u.takeByte b).remaining
      irq := (u.takeByte b).irq } := by
  simp only [Dmc.takeByte]
  split
  · split
    · rfl
    · split <;> rfl
  · rfl

/-- Taking a byte leaves one byte less, or the sample's length when a looping sample ends. -/
theorem Dmc.takeByte_remaining (u : Dmc) (b : Byte) :
    (u.takeByte b).remaining = if u.remaining - 1 = 0 ∧ u.loop = true then u.sampleLen else u.remaining - 1 := by
  simp only [Dmc.takeByte]
  split
  · rename_i h
    split
    · simp_all
    · split <;> simp_all
  · rename_i h
    exact (if_neg fun hc => h hc.1).symm

/-- What a cycle of the devices does to the DMC, the cost and the parameters: the DMC's timer ticks, and if that leaves a byte
wanted, it is taken and the cost grows by DMC_STALL. -/
theorem State.deviceCycle_dmc (s : State) :
    s.deviceCycle.params = s.params ∧
    ((s.apu.dmc.tick s.params.dmcLimit).wantsByte = false ∧ s.deviceCycle.apu.dmc = s.apu.dmc.tick s.params.dmcLimit ∧
        s.deviceCycle.cost = s.cost ∨
      (s.apu.dmc.tick s.params.dmcLimit).wantsByte = true ∧
        (∃ b, s.deviceCycle.apu.dmc = (s.apu.dmc.tick s.params.dmcLimit).takeByte b) ∧
        s.deviceCycle.cost = s.cost + s.params.dmcStall) := by
  have key : ∀ u : State, u.apuTick.params = u.params ∧
      ((u.apu.dmc.tick u.params.dmcLimit).wantsByte = false ∧ u.apuTick.apu.dmc = u.apu.dmc.tick u.params.dmcLimit ∧
          u.apuTick.cost = u.cost ∨
        (u.apu.dmc.tick u.params.dmcLimit).wantsByte = true ∧
          (∃ b, u.apuTick.apu.dmc = (u.apu.dmc.tick u.params.dmcLimit).takeByte b) ∧
          u.apuTick.cost = u.cost + u.params.dmcStall) := by
    intro u
    refine ⟨by rw [State.apuTick_frame], ?_⟩
    simp only [State.apuTick, State.dmcReader, Apu.tickUnits_dmc, Apu.tickEnd, Apu.sampleTick]
    split
    · rename_i h
      exact .inr ⟨h, ⟨_, by simp [State.addCost]; rfl⟩, by simp [State.addCost]⟩
    · rename_i h
      exact .inl ⟨by simpa using h, by simp, rfl⟩
  exact key s.ppuTick.ppuTick.ppuTick

/-- A cycle of the devices keeps the rate, the loop flag, the sample's length and the parameters, and takes no cost back. -/
theorem State.deviceCycle_keeps (s : State) :
    s.deviceCycle.apu.dmc.rate = s.apu.dmc.rate ∧ s.deviceCycle.apu.dmc.loop = s.apu.dmc.loop ∧
    s.deviceCycle.apu.dmc.sampleLen = s.apu.dmc.sampleLen ∧ s.deviceCycle.params = s.params ∧
    s.cost ≤ s.deviceCycle.cost := by
  have ht := Dmc.tick_frame s.apu.dmc s.params.dmcLimit
  obtain ⟨hp, ⟨-, h2, h3⟩ | ⟨-, ⟨b, h2⟩, h3⟩⟩ := State.deviceCycle_dmc s
  · rw [h2, ht]; exact ⟨rfl, rfl, rfl, hp, h3.ge⟩
  · rw [h2, Dmc.takeByte_frame, ht]; exact ⟨rfl, rfl, rfl, hp, by omega⟩

/-- A larger bound gives the same answer of the loop. -/
theorem State.catchUpLoop_mono {n m k : Nat} (h : State.catchUpLoop n k s = some t) (hm : n ≤ m) :
    State.catchUpLoop m k s = some t := by
  induction n generalizing m k s with
  | zero =>
    unfold State.catchUpLoop at h
    cases m <;> unfold State.catchUpLoop <;> split at h <;> simp_all
  | succ n ih =>
    obtain ⟨m, rfl⟩ : ∃ j, m = j + 1 := ⟨m - 1, by omega⟩
    unfold State.catchUpLoop at h ⊢
    split at h
    · rw [if_pos ‹_›]; exact ih h (by omega)
    · rw [if_neg ‹_›]; exact h

/-- The loop ends within `fuel` cycles if some measure of the state and `k` falls in each cycle and starts at `fuel` or less. -/
theorem State.catchUpLoop_measure (P : State → Prop) (measure : State → Nat → Nat)
    (h : ∀ s k, P s → k < s.cost → P s.deviceCycle ∧ measure s.deviceCycle (k + 1) + 1 ≤ measure s k)
    {fuel k : Nat} (hs : P s) (hm : measure s k ≤ fuel) : ∃ t, State.catchUpLoop fuel k s = some t := by
  induction fuel generalizing k s with
  | zero =>
    unfold State.catchUpLoop
    split
    · have := (h s k hs ‹_›).2; omega
    · exact ⟨_, rfl⟩
  | succ n ih =>
    unfold State.catchUpLoop
    split
    · have := h s k hs ‹_›
      exact ih this.1 (by omega)
    · exact ⟨_, rfl⟩

end Sys2Proof.Machine
end

