-- ==== Sys2Proof/Laws/Invariant.lean ====
section
/-! SUPPORT. Each operation of the machine keeps the invariant of Safety.lean: a bus read and a bus write, a change of CPU registers,
a PPU dot, an APU tick. -/

namespace Sys2Proof

open Machine Safety

variable {s : State}

/-! Changes of one part of the state. -/

/-- The CPU's registers and the cost can change freely, but for clearing bit 5 of P. -/
theorem Safety.Inv.cpu (s : State) (a x y sp p : Byte) (pc : Word) (cost : Nat) (hp : p.getLsbD 5 = s.p.getLsbD 5 ∨ p.getLsbD 5 = true)
    (h : Inv s) : Inv { s with a := a, x := x, y := y, sp := sp, p := p, pc := pc, cost := cost } where
  memories := { h.memories with }
  counters := { h.counters with }
  status := hp.elim (fun e => e.trans h.status) id
  nmiOutput := h.nmiOutput

/-- The NMI latch and the cycle count are free. -/
theorem Safety.Inv.latches (b : Bool) (n : Nat) (h : Inv s) : Inv { s with nmiPending := b, cycles := n } where
  memories := { h.memories with }
  counters := { h.counters with }
  status := h.status
  nmiOutput := h.nmiOutput

/-- The controller ports, if their counts stay at most 8. -/
theorem Safety.Inv.withPads {c : Pads} {n : Nat} (h : Inv s) (h0 : c.reads0 ≤ 8) (h1 : c.reads1 ≤ 8) :
    Inv { s with pads := c, draws := n } where
  memories := { h.memories with }
  counters := { h.counters with reads0 := h0, reads1 := h1 }
  status := h.status
  nmiOutput := h.nmiOutput

/-- The APU, if the DMC's bit count stays in 1..8. -/
theorem Safety.Inv.withApu {u : Apu} (h : Inv s) (hu : 1 ≤ u.dmc.bits ∧ u.dmc.bits ≤ 8) : Inv { s with apu := u } where
  memories := { h.memories with }
  counters := { h.counters with dmcBits := hu }
  status := h.status
  nmiOutput := h.nmiOutput

/-- The PPU, if its memories and counters stay as they are but for OAM, and its NMI output is up to date. -/
theorem Safety.Inv.withPpu {q : Ppu} {b : Bool} (h : Inv s) (hoam : Memory.wf q.oam = true ∧ Memory.within 256 q.oam = true)
    (h1 : q.secOam = s.ppu.secOam) (h2 : q.ciram = s.ppu.ciram) (h3 : q.palette = s.ppu.palette) (h4 : q.frame = s.ppu.frame)
    (h5 : q.scanline = s.ppu.scanline) (h6 : q.dot = s.ppu.dot) (h7 : q.sprCount = s.ppu.sprCount)
    (h8 : q.sprites = s.ppu.sprites) (hn : q.nmiOut = q.nmiLevel) : Inv { s with ppu := q, nmiPending := b } where
  memories := { h.memories with
    oam := hoam, secOam := by simpa [h1] using h.memories.secOam, ciram := by simpa [h2] using h.memories.ciram
    palette := by simpa [h3] using h.memories.palette, frame := by simpa [h4] using h.memories.frame }
  counters := { h.counters with
    scanline := by simpa [h5] using h.counters.scanline, dot := by simpa [h6] using h.counters.dot
    sprCount := by simpa [h7] using h.counters.sprCount, sprites := by simpa [h8] using h.counters.sprites }
  status := h.status
  nmiOutput := hn

/-! The bus. -/

/-- Reading a controller port keeps its counts at most 8. -/
theorem Machine.State.readPad_reads (s : State) (port : Bool) (a : Word) (h0 : s.pads.reads0 ≤ 8) (h1 : s.pads.reads1 ≤ 8) :
    (s.readPad port a).2.pads.reads0 ≤ 8 ∧ (s.readPad port a).2.pads.reads1 ≤ 8 := by
  have hs : ∀ c : Pads, c.reads0 ≤ 8 → c.reads1 ≤ 8 → (c.shiftOut port).2.reads0 ≤ 8 ∧ (c.shiftOut port).2.reads1 ≤ 8 := by
    intro c h0 h1
    unfold Pads.shiftOut
    split <;> split
    · exact ⟨h0, by simp only; omega⟩
    · exact ⟨h0, h1⟩
    · exact ⟨by simp only; omega, h1⟩
    · exact ⟨h0, h1⟩
  simp only [State.readPad]
  apply hs <;> split
  · cases port <;> simp [State.reloadPad, h0]
  · exact h0
  · cases port <;> simp [State.reloadPad, h1]
  · exact h1

/-- A bus read keeps the invariant. -/
theorem Safety.Inv.cpuRead (s : State) (w : Word) (h : Inv s) : Inv (s.cpuRead w).2 := by
  have hp : (s.cpuRead w).2.pads.reads0 ≤ 8 ∧ (s.cpuRead w).2.pads.reads1 ≤ 8 := by
    have h0 := h.counters.reads0
    have h1 := h.counters.reads1
    unfold State.cpuRead
    split
    · exact ⟨h0, h1⟩
    split
    · rw [State.ppuRegRead_frame]; exact ⟨h0, h1⟩
    split
    · exact ⟨h0, h1⟩
    split
    · exact ⟨h0, h1⟩
    split
    · exact State.readPad_reads s _ _ h0 h1
    split
    · exact State.readPad_reads s _ _ h0 h1
    split <;> exact ⟨h0, h1⟩
  obtain ⟨hm, hc, hs, hn⟩ := h
  refine ⟨?_, ?_, ?_, (State.cpuRead_nmi s w hn).1⟩
  · constructor
    · simpa using hm.banks
    all_goals simp [hm.ram, hm.prgRom, hm.chr, hm.prgRam, hm.vramExtra, hm.oam, hm.secOam, hm.ciram, hm.palette, hm.frame]
  · constructor <;> simp [hc.scanline, hc.dot, hc.sprCount, hc.sprites, hc.mmc1Count, hc.dmcBits, hp]
  · simpa [StatusOk] using hs

/-- OAM DMA's copy keeps the invariant. -/
theorem Safety.Inv.dmaCopy (base : Word) (n i : Nat) (hi : i + n ≤ 256) (s : State) (h : Inv s) : Inv (State.dmaCopy base n i s) := by
  induction n generalizing i s with
  | zero => exact h
  | succ n ih =>
    apply ih _ (by omega)
    have h' := Inv.cpuRead s (base + BitVec.ofNat 16 i) h
    have ht : (s.cpuRead (base + BitVec.ofNat 16 i)).2.dmaTarget i < 256 := by
      unfold State.dmaTarget
      split
      · omega
      · exact BitVec.isLt _
    exact h'.withPpu ⟨Memory.wf_write _ _ h'.memories.oam.1, Memory.within_write ht h'.memories.oam.2⟩
      rfl rfl rfl rfl rfl rfl rfl rfl h'.nmiOutput

/-- A palette index lies in the palette. -/
theorem Machine.palIndex_lt (al : PaletteAlias) (i : BitVec 5) : palIndex al i < 32 := by
  have := i.isLt
  unfold palIndex
  split <;> split <;> omega

/-- There are two CIRAM halves and two halves of four-screen RAM. -/
theorem Machine.nametableSelect_lt (m : Mirroring) (a : PpuAddr) :
    (∀ k, nametableSelect m a = .ciram k → k < 2) ∧ (∀ k, nametableSelect m a = .extra k → k < 2) := by
  have : (a.extractLsb' 10 2).toNat < 4 := (a.extractLsb' 10 2).isLt
  unfold nametableSelect
  constructor <;> intro k hk <;> cases m <;> simp only at hk
  case left.fourScreen => (split at hk <;> cases hk); omega
  case right.fourScreen => (split at hk <;> cases hk); omega
  all_goals cases hk <;> omega

/-- A pattern-table address lies in the CHR memory of a cartridge with two CHR banks or more. -/
theorem Machine.Cart.chrIndex_lt (c : Cart) (a : PpuAddr) (h : 2 ≤ c.nChr4) : c.chrIndex a < 4096 * c.nChr4 := by
  have ho : (a.setWidth 12).toNat < 4096 := BitVec.isLt _
  have hw : c.chrWindow (a.getLsbD 12) < c.nChr4 := by
    unfold Cart.chrWindow Mmc1.chrWindow
    split
    · split <;> omega
    · split <;> exact Nat.mod_lt _ (by omega)
  unfold Cart.chrIndex
  omega

/-- A PPU-bus write keeps the invariant. -/
theorem Safety.Inv.ppuBusWrite (s : State) (a : PpuAddr) (d : Byte) (h : Inv s) : Inv (s.ppuBusWrite a d) := by
  have ho : (a.setWidth 10).toNat < 1024 := BitVec.isLt _
  unfold State.ppuBusWrite
  split
  · unfold Cart.ppuWrite
    split
    · rename_i hc
      have hi := Cart.chrIndex_lt s.cart a (h.memories.banks (by simp at hc; exact hc.1)).2
      exact ⟨{ h.memories with chr := ⟨Memory.wf_write _ _ h.memories.chr.1, Memory.within_write hi h.memories.chr.2⟩ },
        { h.counters with }, h.status, h.nmiOutput⟩
    · exact h
  split
  · unfold State.ntWrite
    have hk := nametableSelect_lt s.cart.mirrorMode a
    cases hsel : nametableSelect s.cart.mirrorMode a with
    | ciram k =>
      have := hk.1 k hsel
      exact ⟨{ h.memories with
        ciram := ⟨Memory.wf_write _ _ h.memories.ciram.1, Memory.within_write (by omega) h.memories.ciram.2⟩ },
        { h.counters with }, h.status, h.nmiOutput⟩
    | extra k =>
      have := hk.2 k hsel
      exact ⟨{ h.memories with
        vramExtra := ⟨Memory.wf_write _ _ h.memories.vramExtra.1, Memory.within_write (by omega) h.memories.vramExtra.2⟩ },
        { h.counters with }, h.status, h.nmiOutput⟩
  · exact ⟨{ h.memories with
      palette := ⟨Memory.wf_write _ _ h.memories.palette.1, Memory.within_write (palIndex_lt _ _) h.memories.palette.2⟩ },
      { h.counters with }, h.status, h.nmiOutput⟩

/-- A write of a PPU register keeps the invariant. -/
theorem Safety.Inv.ppuRegWrite (s : State) (r : BitVec 3) (d : Byte) (h : Inv s) : Inv (s.ppuRegWrite r d) := by
  have hn : s.ppu.nmiOut = s.ppu.nmiLevel := h.nmiOutput
  have ho := h.memories.oam
  unfold State.ppuRegWrite
  split
  · exact h.withPpu ho rfl rfl rfl rfl rfl rfl rfl rfl rfl
  · exact h.withPpu ho rfl rfl rfl rfl rfl rfl rfl rfl hn
  · exact h.withPpu ho rfl rfl rfl rfl rfl rfl rfl rfl hn
  · exact h.withPpu ⟨Memory.wf_write _ _ ho.1, Memory.within_write (BitVec.isLt _) ho.2⟩ rfl rfl rfl rfl rfl rfl rfl rfl hn
  · cases hw : s.ppu.w <;> simp only [Ppu.writeScroll, State.latchPpu, hw] <;>
      exact h.withPpu ho rfl rfl rfl rfl rfl rfl rfl rfl hn
  · cases hw : s.ppu.w <;> simp only [Ppu.writeAddr, State.latchPpu, hw] <;>
      exact h.withPpu ho rfl rfl rfl rfl rfl rfl rfl rfl hn
  · have hl : Inv (s.latchPpu d) := h.withPpu ho rfl rfl rfl rfl rfl rfl rfl rfl hn
    have h' := Inv.ppuBusWrite (s.latchPpu d) ((s.latchPpu d).ppu.v.setWidth 14) d hl
    exact h'.withPpu h'.memories.oam rfl rfl rfl rfl rfl rfl rfl rfl h'.nmiOutput
  · exact h.withPpu ho rfl rfl rfl rfl rfl rfl rfl rfl hn

/-- A write to the MMC1 keeps its count below 5. -/
theorem Machine.Mmc1.write_count (r : Mmc1) (a : Word) (d : Byte) (h : r.count < 5) : (r.write a d).count < 5 := by
  unfold Mmc1.write
  split
  · simp
  · simp only
    split
    · split <;> simp
    · simp; omega

/-- A write to the cartridge keeps the invariant. -/
theorem Safety.Inv.cartWrite (s : State) (a : Word) (d : Byte) (h : Inv s) : Inv { s with cart := s.cart.write a d } := by
  unfold Cart.write
  split
  · exact h
  split
  · exact h
  split
  · exact ⟨{ h.memories with
      prgRam := ⟨Memory.wf_write _ _ h.memories.prgRam.1, Memory.within_write (by omega) h.memories.prgRam.2⟩ },
      { h.counters with }, h.status, h.nmiOutput⟩
  · unfold Cart.mapperWrite
    split
    · exact h
    · exact ⟨{ h.memories with }, { h.counters with mmc1Count := Mmc1.write_count _ _ _ h.counters.mmc1Count }, h.status,
        h.nmiOutput⟩

/-- A write of an APU register leaves the DMC's bit count alone. -/
theorem Machine.Apu.write_dmcBits (u : Apu) (a : Word) (d : Byte) : (u.write a d).dmc.bits = u.dmc.bits := by
  unfold Apu.write
  split <;> try rfl
  · simp only [Apu.writeEnable, Dmc.writeEnable]; split <;> (try split) <;> rfl
  · simp only [Apu.writeFrameCounter]; split <;> rfl

/-- A bus write keeps the invariant. -/
theorem Safety.Inv.cpuWrite (s : State) (w : Word) (d : Byte) (h : Inv s) : Inv (s.cpuWrite w d) := by
  have hb := h.counters.dmcBits
  unfold State.cpuWrite
  split
  · exact ⟨{ h.memories with
      ram := ⟨Memory.wf_write _ _ h.memories.ram.1, Memory.within_write (BitVec.isLt _) h.memories.ram.2⟩ },
      { h.counters with }, h.status, h.nmiOutput⟩
  split
  · exact Inv.ppuRegWrite s _ _ h
  split
  · exact h.withApu (by rw [Apu.write_dmcBits]; exact hb)
  split
  · exact Inv.cpu _ _ _ _ _ _ _ _ (.inl rfl) (Inv.dmaCopy _ 256 0 (by omega) s h)
  split
  · exact h.withApu (by rw [Apu.write_dmcBits]; exact hb)
  split
  · unfold State.strobePads
    cases d.getLsbD 0
    · exact h.withPads h.counters.reads0 h.counters.reads1
    · exact h.withPads (Nat.zero_le _) (Nat.zero_le _)
  split
  · exact h.withApu (by rw [Apu.write_dmcBits]; exact hb)
  split
  · exact h
  · exact Inv.cartWrite s w d h

/-! The devices. -/

/-- A dot keeps the frame buffer canonical and within 256 x 240 pixels. -/
theorem Machine.Ppu.dotWork_frameBuffer (p : Ppu) (c : Cart) (pr : Params)
    (h : Memory.wf p.frame = true ∧ Memory.within 61440 p.frame = true) :
    Memory.wf (p.dotWork c pr).frame = true ∧ Memory.within 61440 (p.dotWork c pr).frame = true := by
  have hpix : ∀ q : Ppu, q.frame = p.frame →
      Memory.wf (q.pixelStage pr).frame = true ∧ Memory.within 61440 (q.pixelStage pr).frame = true := by
    intro q hq
    unfold Ppu.pixelStage
    split
    · rename_i hv
      simp [Ppu.visible] at hv
      have hput : ∀ e, Memory.wf (q.putPixel pr (q.dot - 1) e).frame = true ∧
          Memory.within 61440 (q.putPixel pr (q.dot - 1) e).frame = true := by
        intro e
        simp only [Ppu.putPixel, hq]
        exact ⟨Memory.wf_write _ _ h.1, Memory.within_write (by omega) h.2⟩
      unfold Ppu.outputPixel
      split <;> exact hput _
    · rw [hq]; exact h
  unfold Ppu.dotWork
  rw [Ppu.spriteWork_frame]
  simp only
  unfold Ppu.backgroundWork
  split
  · rw [Ppu.scrollStage_frame, Ppu.fetchStage_frame]
    apply hpix
    rw [Ppu.shiftStage_frame, Ppu.flagWork_frame]
  split
  · rw [Ppu.flagWork_frame]; exact h
  · apply hpix; rw [Ppu.flagWork_frame]

/-- What sprite evaluation leaves: at most 8 units in use, 8 units in all, and 32 bytes of secondary OAM. -/
theorem Machine.Ppu.evalSprites_sizes (p : Ppu) (c : Cart) (pr : Params) :
    (p.evalSprites c pr).sprCount ≤ 8 ∧ (p.sprites.length = 8 → (p.evalSprites c pr).sprites.length = 8) ∧
    Memory.wf (p.evalSprites c pr).secOam = true ∧ Memory.within 32 (p.evalSprites c pr).secOam = true := by
  have hl : ((p.spriteMatches p.scanline).take 8).length ≤ 8 := by simp
  have hb : (((p.spriteMatches p.scanline).take 8).flatMap p.oamEntry).length =
      4 * ((p.spriteMatches p.scanline).take 8).length := by
    rw [List.length_flatMap]
    simp [Ppu.oamEntry, mul_comm]
  simp only [Ppu.evalSprites]
  refine ⟨hl, ?_, Memory.wf_ofList _ _, Memory.within_ofList ?_⟩
  · intro h; rw [List.length_append, List.length_drop, List.length_mapIdx, h]; omega
  · rw [List.length_append, List.length_replicate, hb]; omega

/-- The sprite part of a dot keeps the sizes of the sprite state. -/
theorem Machine.Ppu.spriteWork_sizes (p : Ppu) (c : Cart) (pr : Params) (h1 : p.sprCount ≤ 8) (h2 : p.sprites.length = 8)
    (h3 : Memory.wf p.secOam = true ∧ Memory.within 32 p.secOam = true) :
    (p.spriteWork c pr).sprCount ≤ 8 ∧ (p.spriteWork c pr).sprites.length = 8 ∧
    Memory.wf (p.spriteWork c pr).secOam = true ∧ Memory.within 32 (p.spriteWork c pr).secOam = true := by
  have he := Ppu.evalSprites_sizes p c pr
  unfold Ppu.spriteWork
  split
  · have key : ∀ q : Ppu, (q.sprCount ≤ 8 ∧ q.sprites.length = 8 ∧ Memory.wf q.secOam = true ∧ Memory.within 32 q.secOam = true) →
        ∀ b : Bool, ((if b then { q with oamaddr := 0 } else q : Ppu).sprCount ≤ 8 ∧
          (if b then { q with oamaddr := 0 } else q : Ppu).sprites.length = 8 ∧
          Memory.wf (if b then { q with oamaddr := 0 } else q : Ppu).secOam = true ∧
          Memory.within 32 (if b then { q with oamaddr := 0 } else q : Ppu).secOam = true) := by
      intro q hq b
      cases b <;> exact hq
    apply key
    split
    · exact ⟨Nat.zero_le _, h2, h3⟩
    split
    · exact ⟨he.1, he.2.1 h2, he.2.2⟩
    · exact ⟨h1, h2, h3⟩
  · exact ⟨h1, h2, h3⟩

/-- The position stays in the frame. -/
theorem Machine.Ppu.nextDot_position (p : Ppu) (pr : Params) (h1 : p.scanline < 262) (h2 : p.dot < 341) :
    (p.nextDot pr).scanline < 262 ∧ (p.nextDot pr).dot < 341 := by
  unfold Ppu.nextDot
  split
  · simp
  split
  · split <;> simp; omega
  · simp; omega

/-- A PPU dot keeps the invariant. -/
theorem Safety.Inv.ppuTick (s : State) (h : Inv s) : Inv s.ppuTick := by
  obtain ⟨hm, hc, hs, -⟩ := h
  have hf := Ppu.dotWork_frameBuffer s.ppu s.cart s.params hm.frame
  have hsp : (s.ppu.dotWork s.cart s.params).sprCount ≤ 8 ∧ (s.ppu.dotWork s.cart s.params).sprites.length = 8 ∧
      Memory.wf (s.ppu.dotWork s.cart s.params).secOam = true ∧
      Memory.within 32 (s.ppu.dotWork s.cart s.params).secOam = true := by
    apply Ppu.spriteWork_sizes <;> rw [Ppu.backgroundWork_frame, Ppu.flagWork_frame]
    · exact hc.sprCount
    · exact hc.sprites
    · exact hm.secOam
  have hpos := Ppu.nextDot_position (s.ppu.dotWork s.cart s.params) s.params
    (by rw [Ppu.dotWork_frame]; exact hc.scanline) (by rw [Ppu.dotWork_frame]; exact hc.dot)
  have hq : s.ppuTick.ppu = { (s.ppu.dotWork s.cart s.params).nextDot s.params with
      nmiOut := ((s.ppu.dotWork s.cart s.params).nextDot s.params).nmiLevel } := rfl
  rw [State.ppuTick_frame, hq]
  refine ⟨⟨hm.banks, hm.ram, hm.prgRom, hm.chr, hm.prgRam, hm.vramExtra, ?_, ?_, ?_, ?_, ?_⟩,
    ⟨hpos.1, hpos.2, ?_, ?_, hc.reads0, hc.reads1, hc.mmc1Count, hc.dmcBits⟩, hs, rfl⟩
  all_goals rw [Ppu.nextDot_frame]
  · rw [Ppu.dotWork_frame]; exact hm.oam
  · exact hsp.2.2
  · rw [Ppu.dotWork_frame]; exact hm.ciram
  · rw [Ppu.dotWork_frame]; exact hm.palette
  · exact hf
  · exact hsp.1
  · exact hsp.2.1

/-- A tick of the DMC keeps its bit count in 1..8. -/
theorem Machine.Dmc.tick_bits (u : Dmc) (lim : DmcLimit) (h : 1 ≤ u.bits ∧ u.bits ≤ 8) : 1 ≤ (u.tick lim).bits ∧ (u.tick lim).bits ≤ 8 := by
  unfold Dmc.tick
  split
  · simp only [Dmc.outputClock]
    split
    · split <;> simp
    · simp; omega
  · exact h

/-- Taking a byte leaves the DMC's bit count alone. -/
theorem Machine.Dmc.takeByte_bits (u : Dmc) (b : Byte) : (u.takeByte b).bits = u.bits := by
  simp only [Dmc.takeByte]
  split
  · split <;> (try split) <;> rfl
  · rfl

/-- The sample reader keeps the invariant. -/
theorem Safety.Inv.dmcReader (s : State) (h : Inv s) : Inv s.dmcReader := by
  unfold State.dmcReader
  split
  · have h' := Inv.cpuRead s s.apu.dmc.curAddr h
    exact Inv.cpu _ _ _ _ _ _ _ _ (.inl rfl) (h'.withApu (u := { (s.cpuRead s.apu.dmc.curAddr).2.apu with
      dmc := (s.cpuRead s.apu.dmc.curAddr).2.apu.dmc.takeByte (s.cpuRead s.apu.dmc.curAddr).1 })
      (by simp only [Dmc.takeByte_bits]; exact h'.counters.dmcBits))
  · exact h

/-- An APU tick keeps the invariant. -/
theorem Safety.Inv.apuTick (s : State) (h : Inv s) : Inv s.apuTick := by
  have h1 : Inv { s with apu := s.apu.tickUnits s.params } :=
    h.withApu (by rw [Apu.tickUnits_dmc]; exact Dmc.tick_bits _ _ h.counters.dmcBits)
  have h2 := Inv.dmcReader _ h1
  exact h2.withApu h2.counters.dmcBits

end Sys2Proof
end

