-- ==== Sys2Proof/Laws/Operands.lean ====
section
/-! SUPPORT. What reading an operand keeps, and when its address can cross a page. -/

namespace Sys2Proof.Machine

variable {s : State} {m : Src}

/-! Reading an operand is at most one bus read: no register, no memory and no parameter changes (20_memory.md R80). -/

@[simp] theorem State.operand_a : (s.operand m).2.2.a = s.a := by rcases s.operand_state m with h | ⟨w, h⟩ <;> simp [h]
@[simp] theorem State.operand_x : (s.operand m).2.2.x = s.x := by rcases s.operand_state m with h | ⟨w, h⟩ <;> simp [h]
@[simp] theorem State.operand_y : (s.operand m).2.2.y = s.y := by rcases s.operand_state m with h | ⟨w, h⟩ <;> simp [h]
@[simp] theorem State.operand_sp : (s.operand m).2.2.sp = s.sp := by rcases s.operand_state m with h | ⟨w, h⟩ <;> simp [h]
@[simp] theorem State.operand_p : (s.operand m).2.2.p = s.p := by rcases s.operand_state m with h | ⟨w, h⟩ <;> simp [h]
@[simp] theorem State.operand_pc : (s.operand m).2.2.pc = s.pc := by rcases s.operand_state m with h | ⟨w, h⟩ <;> simp [h]
@[simp] theorem State.operand_cost : (s.operand m).2.2.cost = s.cost := by rcases s.operand_state m with h | ⟨w, h⟩ <;> simp [h]
@[simp] theorem State.operand_params : (s.operand m).2.2.params = s.params := by
  rcases s.operand_state m with h | ⟨w, h⟩ <;> simp [h]
@[simp] theorem State.operand_ram : (s.operand m).2.2.ram = s.ram := by rcases s.operand_state m with h | ⟨w, h⟩ <;> simp [h]
@[simp] theorem State.operand_cart : (s.operand m).2.2.cart = s.cart := by rcases s.operand_state m with h | ⟨w, h⟩ <;> simp [h]
@[simp] theorem State.operand_oam : (s.operand m).2.2.ppu.oam = s.ppu.oam := by
  rcases s.operand_state m with h | ⟨w, h⟩ <;> simp [h]
@[simp] theorem State.operand_secOam : (s.operand m).2.2.ppu.secOam = s.ppu.secOam := by
  rcases s.operand_state m with h | ⟨w, h⟩ <;> simp [h]
@[simp] theorem State.operand_ciram : (s.operand m).2.2.ppu.ciram = s.ppu.ciram := by
  rcases s.operand_state m with h | ⟨w, h⟩ <;> simp [h]
@[simp] theorem State.operand_palette : (s.operand m).2.2.ppu.palette = s.ppu.palette := by
  rcases s.operand_state m with h | ⟨w, h⟩ <;> simp [h]

/-- Only absolute indexed and indirect indexed addresses can cross a page (30_encoding.md R122, R123, R127). -/
theorem State.resolve_cross {m : Addr} (h : (s.resolve m).2.1 = true) :
    (∃ w, m = .absx w) ∨ (∃ w, m = .absy w) ∨ ∃ b, m = .indy b := by
  cases m <;> simp [State.resolve] at h ⊢

/-- The same of a read operand. -/
theorem State.operand_cross (h : (s.operand m).2.1 = true) :
    (∃ w, m = .mem (.absx w)) ∨ (∃ w, m = .mem (.absy w)) ∨ ∃ b, m = .mem (.indy b) := by
  cases m with
  | imm b => simp [State.operand] at h
  | mem m => simpa using State.resolve_cross (s := s) (by simpa [State.operand_mem] using h)

/-- With the default CYCLES, whether an instruction pays for a page cross is in the list of marked opcodes
(70_reset_and_hazards.md R770). -/
theorem instrCycles_pageCross {pr : Params} {i : Instr} {op : Byte} (h : pr.cycleOverrides = []) (ho : i.opcode = some op) :
    (instrCycles pr i).pageCross = pageCrossOpcodes.contains op.toNat := by
  simp [instrCycles, ho, cycleRow, h, defaultCycleRow]

/-- What an instruction that reads an operand and then changes A, X, Y and P leaves: the reads' state with those registers, PC
past the instruction, and the page-cross penalty. -/
theorem State.reading_eq (s : State) (i : Instr) (m : Src) (f : Byte → State → State) (g : Byte → Byte × Byte × Byte × Byte)
    (hf : f (s.operand m).1 (s.operand m).2.2 = { (s.operand m).2.2 with
      a := (g (s.operand m).1).1, x := (g (s.operand m).1).2.1, y := (g (s.operand m).1).2.2.1, p := (g (s.operand m).1).2.2.2 }) :
    s.reading i m f = { (s.operand m).2.2 with
      a := (g (s.operand m).1).1, x := (g (s.operand m).1).2.1, y := (g (s.operand m).1).2.2.1, p := (g (s.operand m).1).2.2.2
      cost := s.cost + if (s.operand m).2.1 && (instrCycles s.params i).pageCross then 1 else 0
      pc := s.pc + BitVec.ofNat 16 (1 + m.size) } := by
  simp [State.reading, hf, State.chargeCross, State.advance, State.setPc, State.addCost, State.pcNext]

end Sys2Proof.Machine
end

