-- ==== Sys2Proof/Laws/PerInstr.lean ====
section
/-! SUPPORT. Statements for all instructions, one lemma for each constructor.

`Encoding`: an instruction has an opcode byte exactly when it is well formed, and the format its opcode byte has in the decoder
(30_encoding.md R111) has room for exactly its operand bytes. -/

namespace Sys2Proof.Laws.Encoding

/-- The encoding of an instruction exists exactly when it is well formed, and has the length its opcode's format says. -/
def Statement (i : Instr) : Prop :=
  i.opcode.isSome = i.wellFormed ∧ ∀ op, i.opcode = some op → (opcodeFormat op).length = 1 + i.operandBytes.length

/-- `Statement` for an instruction with a fixed opcode. -/
theorem of_opcode {i : Instr} {op : Byte} (h : i.opcode = some op) (hw : i.wellFormed = true)
    (hl : (opcodeFormat op).length = 1 + i.operandBytes.length) : Statement i := by
  refine ⟨by simp [h, hw], fun op' h' => ?_⟩
  rw [h] at h'
  cases h'
  exact hl

/-- `Statement` for an instruction without an opcode. -/
theorem of_none {i : Instr} (h : i.opcode = none) (hw : i.wellFormed = false) : Statement i := by
  refine ⟨by simp [h, hw], fun op h' => ?_⟩
  rw [h] at h'
  cases h'

theorem lda (m : Src) : Statement (.lda m) := by
  cases m with
  | imm b => exact of_opcode rfl rfl rfl
  | mem m => cases m <;> first | exact of_opcode rfl rfl rfl | exact of_none rfl rfl

theorem ldx (m : Src) : Statement (.ldx m) := by
  cases m with
  | imm b => exact of_opcode rfl rfl rfl
  | mem m => cases m <;> first | exact of_opcode rfl rfl rfl | exact of_none rfl rfl

theorem ldy (m : Src) : Statement (.ldy m) := by
  cases m with
  | imm b => exact of_opcode rfl rfl rfl
  | mem m => cases m <;> first | exact of_opcode rfl rfl rfl | exact of_none rfl rfl

theorem sta (m : Addr) : Statement (.sta m) := by
  cases m <;> first | exact of_opcode rfl rfl rfl | exact of_none rfl rfl

theorem stx (m : Addr) : Statement (.stx m) := by
  cases m <;> first | exact of_opcode rfl rfl rfl | exact of_none rfl rfl

theorem sty (m : Addr) : Statement (.sty m) := by
  cases m <;> first | exact of_opcode rfl rfl rfl | exact of_none rfl rfl

theorem tax : Statement .tax := of_opcode rfl rfl rfl

theorem tay : Statement .tay := of_opcode rfl rfl rfl

theorem txa : Statement .txa := of_opcode rfl rfl rfl

theorem tya : Statement .tya := of_opcode rfl rfl rfl

theorem tsx : Statement .tsx := of_opcode rfl rfl rfl

theorem txs : Statement .txs := of_opcode rfl rfl rfl

theorem pha : Statement .pha := of_opcode rfl rfl rfl

theorem php : Statement .php := of_opcode rfl rfl rfl

theorem pla : Statement .pla := of_opcode rfl rfl rfl

theorem plp : Statement .plp := of_opcode rfl rfl rfl

theorem adc (m : Src) : Statement (.adc m) := by
  cases m with
  | imm b => exact of_opcode rfl rfl rfl
  | mem m => cases m <;> first | exact of_opcode rfl rfl rfl | exact of_none rfl rfl

theorem sbc (m : Src) : Statement (.sbc m) := by
  cases m with
  | imm b => exact of_opcode rfl rfl rfl
  | mem m => cases m <;> first | exact of_opcode rfl rfl rfl | exact of_none rfl rfl

theorem and (m : Src) : Statement (.and m) := by
  cases m with
  | imm b => exact of_opcode rfl rfl rfl
  | mem m => cases m <;> first | exact of_opcode rfl rfl rfl | exact of_none rfl rfl

theorem ora (m : Src) : Statement (.ora m) := by
  cases m with
  | imm b => exact of_opcode rfl rfl rfl
  | mem m => cases m <;> first | exact of_opcode rfl rfl rfl | exact of_none rfl rfl

theorem eor (m : Src) : Statement (.eor m) := by
  cases m with
  | imm b => exact of_opcode rfl rfl rfl
  | mem m => cases m <;> first | exact of_opcode rfl rfl rfl | exact of_none rfl rfl

theorem cmp (m : Src) : Statement (.cmp m) := by
  cases m with
  | imm b => exact of_opcode rfl rfl rfl
  | mem m => cases m <;> first | exact of_opcode rfl rfl rfl | exact of_none rfl rfl

theorem cpx (m : Src) : Statement (.cpx m) := by
  cases m with
  | imm b => exact of_opcode rfl rfl rfl
  | mem m => cases m <;> first | exact of_opcode rfl rfl rfl | exact of_none rfl rfl

theorem cpy (m : Src) : Statement (.cpy m) := by
  cases m with
  | imm b => exact of_opcode rfl rfl rfl
  | mem m => cases m <;> first | exact of_opcode rfl rfl rfl | exact of_none rfl rfl

theorem bit (m : Addr) : Statement (.bit m) := by
  cases m <;> first | exact of_opcode rfl rfl rfl | exact of_none rfl rfl

theorem inc (m : Addr) : Statement (.inc m) := by
  cases m <;> first | exact of_opcode rfl rfl rfl | exact of_none rfl rfl

theorem dec (m : Addr) : Statement (.dec m) := by
  cases m <;> first | exact of_opcode rfl rfl rfl | exact of_none rfl rfl

theorem inx : Statement .inx := of_opcode rfl rfl rfl

theorem iny : Statement .iny := of_opcode rfl rfl rfl

theorem dex : Statement .dex := of_opcode rfl rfl rfl

theorem dey : Statement .dey := of_opcode rfl rfl rfl

theorem asl (m : Rmw) : Statement (.asl m) := by
  cases m with
  | acc => exact of_opcode rfl rfl rfl
  | mem m => cases m <;> first | exact of_opcode rfl rfl rfl | exact of_none rfl rfl

theorem lsr (m : Rmw) : Statement (.lsr m) := by
  cases m with
  | acc => exact of_opcode rfl rfl rfl
  | mem m => cases m <;> first | exact of_opcode rfl rfl rfl | exact of_none rfl rfl

theorem rol (m : Rmw) : Statement (.rol m) := by
  cases m with
  | acc => exact of_opcode rfl rfl rfl
  | mem m => cases m <;> first | exact of_opcode rfl rfl rfl | exact of_none rfl rfl

theorem ror (m : Rmw) : Statement (.ror m) := by
  cases m with
  | acc => exact of_opcode rfl rfl rfl
  | mem m => cases m <;> first | exact of_opcode rfl rfl rfl | exact of_none rfl rfl

theorem jmp (t : JumpTarget) : Statement (.jmp t) := by
  cases t <;> exact of_opcode rfl rfl rfl

theorem jsr (w : Word) : Statement (.jsr w) := of_opcode rfl rfl rfl

theorem rts : Statement .rts := of_opcode rfl rfl rfl

theorem bcc (b : Byte) : Statement (.bcc b) := of_opcode rfl rfl rfl

theorem bcs (b : Byte) : Statement (.bcs b) := of_opcode rfl rfl rfl

theorem beq (b : Byte) : Statement (.beq b) := of_opcode rfl rfl rfl

theorem bmi (b : Byte) : Statement (.bmi b) := of_opcode rfl rfl rfl

theorem bne (b : Byte) : Statement (.bne b) := of_opcode rfl rfl rfl

theorem bpl (b : Byte) : Statement (.bpl b) := of_opcode rfl rfl rfl

theorem bvc (b : Byte) : Statement (.bvc b) := of_opcode rfl rfl rfl

theorem bvs (b : Byte) : Statement (.bvs b) := of_opcode rfl rfl rfl

theorem brk : Statement .brk := of_opcode rfl rfl rfl

theorem rti : Statement .rti := of_opcode rfl rfl rfl

theorem clc : Statement .clc := of_opcode rfl rfl rfl

theorem sec : Statement .sec := of_opcode rfl rfl rfl

theorem cli : Statement .cli := of_opcode rfl rfl rfl

theorem sei : Statement .sei := of_opcode rfl rfl rfl

theorem cld : Statement .cld := of_opcode rfl rfl rfl

theorem sed : Statement .sed := of_opcode rfl rfl rfl

theorem clv : Statement .clv := of_opcode rfl rfl rfl

theorem nop : Statement .nop := of_opcode rfl rfl rfl

theorem unassigned (op : Byte) : Statement (.unassigned op) := by
  by_cases h : unassignedBytes.contains op.toNat = true
  · refine of_opcode (op := op) (by simp only [Instr.opcode, h, if_true]) h ?_
    revert op
    decide
  · simp only [Bool.not_eq_true] at h
    exact of_none (by simp only [Instr.opcode, h, Bool.false_eq_true, if_false]) h

end Sys2Proof.Laws.Encoding
end

