-- ==== Sys2Proof/Laws/Scheduler.lean ====
section
/-! SUPPORT. The loops of the scheduler: a loop that ends in some number of steps ends in that result. -/

namespace Sys2Proof.Machine

/-- A loop of `run` that ends in at most `n` steps. -/
theorem runLoop_of_runSteps {n : Nat} {s : State} {r : RunResult} (h : runSteps n s = some r) : runLoop s = some r := by
  induction n generalizing s with
  | zero =>
    rw [runLoop.eq_1]
    unfold runSteps at h
    split at h
    · cases h
    · rw [if_neg ‹_›]; exact h
  | succ n ih =>
    rw [runLoop.eq_1]
    unfold runSteps at h
    split at h
    · rw [if_pos ‹_›]
      split at h
      · exact ih h
      · exact h
      · exact h
    · rw [if_neg ‹_›]; exact h

/-- A call of `run` whose loop ends in at most `n` steps, seen through `f`. -/
theorem run_of_runSteps {α : Type} {n : Nat} {budget : Rat} {s : State} {a : α} (f : RunResult → α) (h : s.refusal = none)
    (hr : (runSteps n (s.setCarry (s.sched.carry + budget))).map f = some a) : f (run budget s) = a := by
  obtain ⟨r, h1, h2⟩ := Option.map_eq_some_iff.1 hr
  unfold run
  rw [h]
  simp only [runLoop_of_runSteps h1]
  exact h2

section

variable {K : Type} [Field K] [LinearOrder K] {p : Pacing K} {acc dt : K} {outputs : List FrameOutput} {s : State}

/-- With no frame due, the loop of `advance` ends at once. -/
theorem frameLoop_idle (h : ¬ acc ≥ (1 - p.paceTolerance) * p.framePeriod) :
    frameLoop p acc outputs s = some { acc := acc, frames := { state := s, outputs := outputs, stop := none } } := by
  rw [frameLoop.eq_1, if_neg h]

/-- A call of `advance` that neither stalls nor drops, with no frame due, only adds to the accumulator. -/
theorem advanceWith_idle (hm : s.sched.mode = .running) (hs : ¬ acc + dt > p.stallThreshold) (hd : p.dropDue (acc + dt) = false)
    (h : ¬ acc + dt ≥ (1 - p.paceTolerance) * p.framePeriod) :
    advanceWith p acc dt s = { acc := acc + dt, frames := { state := s, outputs := [], stop := none } } := by
  unfold advanceWith
  rw [if_neg (not_not_intro hm), if_neg hs, if_neg (by simp [hd])]
  unfold catchUpFrames
  rw [frameLoop_idle h]

end

/-- The same of the state's own times. -/
theorem advance_idle {dt : Rat} {s : State} (hm : s.sched.mode = .running) (hs : ¬ s.sched.acc + dt > s.params.stallThreshold)
    (hd : s.pacing.dropDue (s.sched.acc + dt) = false)
    (h : ¬ s.sched.acc + dt ≥ (1 - s.params.paceTolerance) * s.params.framePeriod) :
    advance dt s = { state := s.setAcc (s.sched.acc + dt), outputs := [], stop := none } := by
  unfold advance
  rw [advanceWith_idle hm hs hd h]

end Sys2Proof.Machine
end

