-- ==== Sys2Proof/Tests/Slice0.lean ====
section
/-! SUPPORT. The author's own tests: ill-formed terms, decoding of words written out from the spec, one step of each instruction
with the values of 95_test_vectors.md, device vectors, and a witness for the hypotheses of each obligation that has some. -/

namespace Sys2Proof.Tests

open Sys2Proof.Machine Sys2Proof.Claims

/-! ## Helpers -/

/-- A machine with 32 KB of PRG-ROM under mapper 0, the bytes `code` at `0x8000 + offset`, PC there, and P = 0x24 (95 part 2). -/
def codeAt (offset : Nat) (code : List Byte) : State :=
  { State.reset with
    pc := 0x8000 + BitVec.ofNat 16 offset
    p := 0x24
    cart := { Cart.absent with present := true, nPrg := 2, nChr4 := 2, prgRom := Memory.ofList offset code } }

/-- The same with the code at 0x8000. -/
def code (bytes : List Byte) : State := codeAt 0 bytes

/-- The result is a next state that `f` accepts. -/
def nextIs (r : Result) (f : State → Bool) : Bool :=
  match r with
  | .next t => f t
  | _ => false

/-- One step ends in a next state that `f` accepts. -/
def ends (s : State) (f : State → Bool) : Bool := nextIs (step s) f

/-! ## Ill-formed terms -/

theorem test_wf_full : (Instr.lda (.mem (.zpy 1))).wellFormed = false ∧ (Instr.lda (.mem (.zpx 1))).wellFormed = true := by decide
theorem test_wf_ldx : (Instr.ldx (.mem (.zpx 1))).wellFormed = false ∧ (Instr.ldx (.mem (.absx 1))).wellFormed = false := by decide
theorem test_wf_ldy : (Instr.ldy (.mem (.absy 1))).wellFormed = false ∧ (Instr.ldy (.mem (.indy 1))).wellFormed = false := by decide
theorem test_wf_cpxy : (Instr.cpx (.mem (.zpx 1))).wellFormed = false ∧ (Instr.cpy (.mem (.absx 1))).wellFormed = false := by decide
theorem test_wf_sta : (Instr.sta (.zpy 1)).wellFormed = false := by decide
theorem test_wf_stx : (Instr.stx (.zpx 1)).wellFormed = false ∧ (Instr.stx (.absy 1)).wellFormed = false := by decide
theorem test_wf_sty : (Instr.sty (.zpy 1)).wellFormed = false ∧ (Instr.sty (.absx 1)).wellFormed = false := by decide
theorem test_wf_bit : (Instr.bit (.zpx 1)).wellFormed = false := by decide
theorem test_wf_rmw : (Instr.inc (.absy 1)).wellFormed = false ∧ (Instr.dec (.indx 1)).wellFormed = false := by decide
theorem test_wf_shift : (Instr.asl (.mem (.zpy 1))).wellFormed = false ∧ (Instr.ror (.mem (.indy 1))).wellFormed = false := by decide
theorem test_wf_unassigned : (Instr.unassigned 0xEA).wellFormed = false ∧ (Instr.unassigned 0x02).wellFormed = true := by decide
theorem test_encode_illFormed : encode (.lda (.mem (.zpy 1))) = [] := by decide

/-! ## Decoding of words written out from the encodings of 40, 41 and 42 (first byte in bits 7..0) -/

theorem test_decode_loads :
    decodeTableWord 16 0b11111111_10100101 = some (.lda (.mem (.zp 0xFF))) ∧
    decodeTableWord 16 0b10000000_10110110 = some (.ldx (.mem (.zpy 0x80))) ∧
    decodeTableWord 24 0b00010010_00110100_10111100 = some (.ldy (.mem (.absx 0x1234))) ∧
    decodeTableWord 16 0b00010000_10110001 = some (.lda (.mem (.indy 0x10))) ∧
    decodeTableWord 16 0b00010000_10100001 = some (.lda (.mem (.indx 0x10))) := by decide
theorem test_decode_stores :
    decodeTableWord 24 0b00000010_11110000_10011001 = some (.sta (.absy 0x02F0)) ∧
    decodeTableWord 16 0b00010000_10010110 = some (.stx (.zpy 0x10)) ∧
    decodeTableWord 16 0b00010000_10010100 = some (.sty (.zpx 0x10)) := by decide
theorem test_decode_transfers :
    decodeTableWord 8 0b10101010 = some .tax ∧ decodeTableWord 8 0b10101000 = some .tay ∧
    decodeTableWord 8 0b10001010 = some .txa ∧ decodeTableWord 8 0b10011000 = some .tya ∧
    decodeTableWord 8 0b10111010 = some .tsx ∧ decodeTableWord 8 0b10011010 = some .txs := by decide
theorem test_decode_stack :
    decodeTableWord 8 0b01001000 = some .pha ∧ decodeTableWord 8 0b00001000 = some .php ∧
    decodeTableWord 8 0b01101000 = some .pla ∧ decodeTableWord 8 0b00101000 = some .plp := by decide
theorem test_decode_arith :
    decodeTableWord 24 0b00010010_00110100_01111101 = some (.adc (.mem (.absx 0x1234))) ∧
    decodeTableWord 16 0b00000101_11101001 = some (.sbc (.imm 0x05)) ∧
    decodeTableWord 16 0b00001111_00101001 = some (.and (.imm 0x0F)) ∧
    decodeTableWord 16 0b10000000_00001001 = some (.ora (.imm 0x80)) ∧
    decodeTableWord 16 0b11111111_01001001 = some (.eor (.imm 0xFF)) := by decide
theorem test_decode_compares :
    decodeTableWord 16 0b00010000_11010101 = some (.cmp (.mem (.zpx 0x10))) ∧
    decodeTableWord 24 0b00010010_00110100_11101100 = some (.cpx (.mem (.abs 0x1234))) ∧
    decodeTableWord 16 0b11111111_11000000 = some (.cpy (.imm 0xFF)) ∧
    decodeTableWord 24 0b00010010_00110100_00101100 = some (.bit (.abs 0x1234)) := by decide
theorem test_decode_incDec :
    decodeTableWord 24 0b00000010_11110000_11111110 = some (.inc (.absx 0x02F0)) ∧
    decodeTableWord 16 0b00010000_11000110 = some (.dec (.zp 0x10)) ∧
    decodeTableWord 8 0b11101000 = some .inx ∧ decodeTableWord 8 0b11001000 = some .iny ∧
    decodeTableWord 8 0b11001010 = some .dex ∧ decodeTableWord 8 0b10001000 = some .dey := by decide
theorem test_decode_shifts :
    decodeTableWord 8 0b00001010 = some (.asl .acc) ∧ decodeTableWord 16 0b00010000_01010110 = some (.lsr (.mem (.zpx 0x10))) ∧
    decodeTableWord 24 0b00010010_00110100_00111110 = some (.rol (.mem (.absx 0x1234))) ∧
    decodeTableWord 16 0b00010000_01100110 = some (.ror (.mem (.zp 0x10))) := by decide
theorem test_decode_jumps :
    decodeTableWord 24 0b10010000_00000000_01001100 = some (.jmp (.abs 0x9000)) ∧
    decodeTableWord 24 0b10010000_00000001_00100000 = some (.jsr 0x9001) ∧
    decodeTableWord 8 0b01100000 = some .rts ∧ decodeTableWord 8 0b01000000 = some .rti := by decide
theorem test_decode_branches :
    decodeTableWord 16 0b11111110_10010000 = some (.bcc 0xFE) ∧ decodeTableWord 16 0b11111110_10110000 = some (.bcs 0xFE) ∧
    decodeTableWord 16 0b11111110_11110000 = some (.beq 0xFE) ∧ decodeTableWord 16 0b11111110_00110000 = some (.bmi 0xFE) ∧
    decodeTableWord 16 0b11111110_11010000 = some (.bne 0xFE) ∧ decodeTableWord 16 0b11111110_00010000 = some (.bpl 0xFE) ∧
    decodeTableWord 16 0b11111110_01010000 = some (.bvc 0xFE) ∧ decodeTableWord 16 0b11111110_01110000 = some (.bvs 0xFE) := by
  decide
theorem test_decode_flags :
    decodeTableWord 8 0b00011000 = some .clc ∧ decodeTableWord 8 0b00111000 = some .sec ∧
    decodeTableWord 8 0b01011000 = some .cli ∧ decodeTableWord 8 0b01111000 = some .sei ∧
    decodeTableWord 8 0b11011000 = some .cld ∧ decodeTableWord 8 0b11111000 = some .sed ∧
    decodeTableWord 8 0b10111000 = some .clv ∧ decodeTableWord 8 0b11101010 = some .nop := by decide
theorem test_decode_unassigned :
    decodeTableWord 8 0b11111111 = some (.unassigned 0xFF) ∧ decodeTableWord 8 0b10001001 = some (.unassigned 0x89) := by decide
theorem test_decode_short : decode [0xA9] = .error .truncated ∧ decode [] = .error .noBytes := by decide

/-! ## One step of each instruction (95_test_vectors.md T3 to T6) -/

theorem test_lda_wrapsPointer :
    ends { code [0xA1, 0xFF] with ram := [(0x00, 0x02), (0xFF, 0x34), (0x234, 0x99)] }
      (fun t => t.a == 0x99 && t.p == 0xA4 && t.cost == 6 && t.pc == 0x8002) = true := by decide
theorem test_lda_crosses :
    ends { code [0xB1, 0x10] with y := 0xFF, ram := [(0x10, 0x01), (0x11, 0x02), (0x300, 0x5A)] }
      (fun t => t.a == 0x5A && t.cost == 6) = true := by decide
theorem test_ldx_wraps :
    ends { code [0xB6, 0xFF] with y := 0x02, ram := [(0x01, 0x77)] } (fun t => t.x == 0x77 && t.cost == 4) = true := by
  decide
theorem test_ldy_crosses :
    ends { code [0xBC, 0xF0, 0xFF] with x := 0x20, ram := [(0x10, 0x21)] } (fun t => t.y == 0x21 && t.cost == 5) = true := by
  decide
theorem test_sta_noCross :
    ends { code [0x9D, 0xF0, 0x02] with a := 0x66, x := 0x10 }
      (fun t => t.ram == [(0x300, 0x66)] && t.cost == 5 && t.pc == 0x8003) = true := by decide
theorem test_sta_mirror :
    ends { code [0x8D, 0x00, 0x08] with a := 0x99 } (fun t => t.ram == [(0x000, 0x99)] && t.cost == 4) = true := by
  decide
theorem test_stx_wraps :
    ends { code [0x96, 0xFF] with x := 0x77, y := 0x02 } (fun t => t.ram == [(0x01, 0x77)] && t.p == 0x24) = true := by
  decide
theorem test_sty_wraps :
    ends { code [0x94, 0x80] with y := 0x42, x := 0x90 } (fun t => t.ram == [(0x10, 0x42)] && t.cost == 4) = true := by
  decide
theorem test_tax : ends { code [0xAA] with a := 0x80 } (fun t => t.x == 0x80 && t.p == 0xA4) = true := by decide
theorem test_tay : ends { code [0xA8] with a := 0x80 } (fun t => t.y == 0x80 && t.p == 0xA4 && t.cost == 2) = true := by decide
theorem test_txa : ends { code [0x8A] with a := 0x55, x := 0x00 } (fun t => t.a == 0x00 && t.p == 0x26) = true := by decide
theorem test_tya : ends { code [0x98] with a := 0x55, y := 0x80 } (fun t => t.a == 0x80 && t.p == 0xA4) = true := by decide
theorem test_tsx : ends { code [0xBA] with sp := 0x00, x := 0x01 } (fun t => t.x == 0x00 && t.p == 0x26) = true := by decide
theorem test_txs : ends { code [0x9A] with x := 0x00, p := 0xA4 } (fun t => t.sp == 0x00 && t.p == 0xA4) = true := by decide
theorem test_pha_wraps :
    ends { code [0x48] with a := 0x5C, sp := 0x00 } (fun t => t.sp == 0xFF && t.ram == [(0x1FF, 0x5C)] && t.cost == 3) = true := by
  decide
theorem test_pla_wraps :
    ends { code [0x68] with a := 0x55, sp := 0xFF } (fun t => t.a == 0 && t.sp == 0x00 && t.p == 0x26 && t.cost == 4) = true := by
  decide
theorem test_php :
    ends { code [0x08] with p := 0xE7 } (fun t => t.sp == 0xFC && t.p == 0xE7 && t.ram == [(0x1FC, 0xF7)]) = true := by decide
theorem test_plp_zero : ends (code [0x28]) (fun t => t.sp == 0xFE && t.p == 0x20 && t.cost == 4) = true := by decide
theorem test_plp_ones : ends { code [0x28] with ram := [(0x1FD, 0xFF)] } (fun t => t.p == 0xFF) = true := by decide
theorem test_adc_carryOut : ends { code [0x69, 0x80] with a := 0x80 } (fun t => t.a == 0x00 && t.p == 0x67) = true := by decide
theorem test_adc_decimal : ends { code [0x69, 0x01] with a := 0x09, p := 0x2C } (fun t => t.a == 0x0A && t.p == 0x2C) = true := by
  decide
theorem test_sbc_borrow : ends { code [0xE9, 0x00] with a := 0x00 } (fun t => t.a == 0xFF && t.p == 0xA4) = true := by decide
theorem test_sbc_overflow : ends { code [0xE9, 0x01] with a := 0x80, p := 0x25 } (fun t => t.a == 0x7F && t.p == 0x65) = true := by
  decide
theorem test_and : ends { code [0x29, 0x0F] with a := 0xF0 } (fun t => t.a == 0x00 && t.p == 0x26) = true := by decide
theorem test_ora : ends { code [0x09, 0x80] with a := 0x01 } (fun t => t.a == 0x81 && t.p == 0xA4) = true := by decide
theorem test_eor : ends { code [0x49, 0xFF] with a := 0xAA } (fun t => t.a == 0x55 && t.p == 0x24) = true := by decide
theorem test_cmp_equal : ends { code [0xC9, 0x10] with a := 0x10 } (fun t => t.a == 0x10 && t.p == 0x27) = true := by decide
theorem test_cmp_below : ends { code [0xC9, 0x80] with a := 0x00 } (fun t => t.p == 0xA4) = true := by decide
theorem test_cpx : ends { code [0xE0, 0x05] with x := 0x06 } (fun t => t.p == 0x25) = true := by decide
theorem test_cpy : ends { code [0xC0, 0xFF] with y := 0x00 } (fun t => t.p == 0x24) = true := by decide
theorem test_bit : ends { code [0x24, 0x10] with a := 0x0F, ram := [(0x10, 0xC0)] } (fun t => t.p == 0xE6 && t.cost == 3) = true := by
  decide
theorem test_inc_noCross :
    ends { code [0xFE, 0xF0, 0x02] with x := 0x10, ram := [(0x300, 0x7F)] }
      (fun t => t.ram == [(0x300, 0x80)] && t.p == 0xA4 && t.cost == 7) = true := by decide
theorem test_inc_wraps :
    ends { code [0xE6, 0x10] with ram := [(0x10, 0xFF)] } (fun t => t.ram == [] && t.p == 0x26 && t.cost == 5) = true := by decide
theorem test_dec_wraps : ends (code [0xC6, 0x10]) (fun t => t.ram == [(0x10, 0xFF)] && t.p == 0xA4) = true := by decide
theorem test_inx : ends { code [0xE8] with x := 0x7F } (fun t => t.x == 0x80 && t.p == 0xA4) = true := by decide
theorem test_iny : ends { code [0xC8] with y := 0xFF } (fun t => t.y == 0x00 && t.p == 0x26) = true := by decide
theorem test_dex : ends { code [0xCA] with x := 0x01 } (fun t => t.x == 0x00 && t.p == 0x26) = true := by decide
theorem test_dey : ends { code [0x88] with y := 0x00 } (fun t => t.y == 0xFF && t.p == 0xA4) = true := by decide
theorem test_asl_acc : ends { code [0x0A] with a := 0x81 } (fun t => t.a == 0x02 && t.p == 0x25) = true := by decide
theorem test_asl_mem :
    ends { code [0x06, 0x10] with ram := [(0x10, 0x40)] } (fun t => t.ram == [(0x10, 0x80)] && t.p == 0xA4 && t.cost == 5) = true := by
  decide
theorem test_lsr : ends { code [0x4A] with a := 0x01 } (fun t => t.a == 0x00 && t.p == 0x27) = true := by decide
theorem test_rol_carryOut : ends { code [0x2A] with a := 0x80 } (fun t => t.a == 0x00 && t.p == 0x27) = true := by decide
theorem test_rol_carryIn : ends { code [0x2A] with a := 0x00, p := 0x25 } (fun t => t.a == 0x01 && t.p == 0x24) = true := by
  decide
theorem test_ror_carryOut : ends { code [0x6A] with a := 0x01 } (fun t => t.a == 0x00 && t.p == 0x27) = true := by decide
theorem test_ror_carryIn : ends { code [0x6A] with a := 0x00, p := 0x25 } (fun t => t.a == 0x80 && t.p == 0xA4) = true := by
  decide
theorem test_jmp_pageWrap :
    ends { code [0x6C, 0xFF, 0x02] with ram := [(0x200, 0x90), (0x300, 0x80)] } (fun t => t.pc == 0x9000 && t.cost == 5) = true := by
  decide
theorem test_jmp_indirect :
    ends { code [0x6C, 0x10, 0x02] with ram := [(0x210, 0x34), (0x211, 0x12)] } (fun t => t.pc == 0x1234) = true := by decide
theorem test_jsr :
    ends (code [0x20, 0x00, 0x90])
      (fun t => t.pc == 0x9000 && t.sp == 0xFB && t.ram == [(0x1FB, 0x02), (0x1FC, 0x80)] && t.cost == 6) = true := by decide
theorem test_jsr_mos6502 :
    ends { code [0x20, 0x00, 0x90] with params := { Params.default with stackOrder := .mos6502 } }
      (fun t => t.pc == 0x9000 && t.sp == 0xFB && t.ram == [(0x1FC, 0x02), (0x1FD, 0x80)]) = true := by decide
theorem test_rts :
    ends { codeAt 0x1000 [0x60] with sp := 0xFB, ram := [(0x1FB, 0x02), (0x1FC, 0x80)] }
      (fun t => t.pc == 0x8003 && t.sp == 0xFD && t.cost == 6) = true := by decide
theorem test_bne_notTaken : ends { code [0xD0, 0xFE] with p := 0x26 } (fun t => t.pc == 0x8002 && t.cost == 2) = true := by
  decide
theorem test_bne_wraps : ends (codeAt 0x7FF0 [0xD0, 0x10]) (fun t => t.pc == 0x0002 && t.cost == 4) = true := by decide
theorem test_bpl : ends (code [0x10, 0x7F]) (fun t => t.pc == 0x8081 && t.cost == 3) = true := by decide
theorem test_bmi : ends { code [0x30, 0x80] with p := 0xA4 } (fun t => t.pc == 0x7F82 && t.cost == 4) = true := by decide
theorem test_beq_samePage : ends { codeAt 0xF0 [0xF0, 0x0C] with p := 0x26 } (fun t => t.pc == 0x80FE && t.cost == 3) = true := by
  decide
theorem test_beq_cross : ends { codeAt 0xF0 [0xF0, 0x20] with p := 0x26 } (fun t => t.pc == 0x8112 && t.cost == 4) = true := by
  decide
theorem test_bcc : ends (code [0x90, 0x0E]) (fun t => t.pc == 0x8010 && t.cost == 3) = true := by decide
theorem test_bcs : ends (code [0xB0, 0x0E]) (fun t => t.pc == 0x8002 && t.cost == 2) = true := by decide
theorem test_bvc : ends { code [0x50, 0x0E] with p := 0x64 } (fun t => t.pc == 0x8002) = true := by decide
theorem test_bvs : ends { code [0x70, 0x0E] with p := 0x64 } (fun t => t.pc == 0x8010) = true := by decide
theorem test_brk :
    ends { code [0x00, 0xEA] with p := 0x20, cart := { (code []).cart with prgRom := [(0x0001, 0xEA), (0x7FFF, 0x90)] } }
      (fun t => t.pc == 0x9000 && t.sp == 0xFA && t.p == 0x24 && t.ram == [(0x1FA, 0x30), (0x1FB, 0x02), (0x1FC, 0x80)] &&
        t.cost == 7) = true := by decide
theorem test_rti :
    ends { codeAt 0x1000 [0x40] with sp := 0xFA, ram := [(0x1FA, 0x30), (0x1FB, 0x02), (0x1FC, 0x80)] }
      (fun t => t.pc == 0x8002 && t.sp == 0xFD && t.p == 0x30 && t.cost == 6) = true := by decide
theorem test_clc : ends { code [0x18] with p := 0xFF } (fun t => t.p == 0xFE) = true := by decide
theorem test_sec : ends (code [0x38]) (fun t => t.p == 0x25) = true := by decide
theorem test_cli : ends { code [0x58] with p := 0xFF } (fun t => t.p == 0xFB) = true := by decide
theorem test_sei : ends { code [0x78] with p := 0x20 } (fun t => t.p == 0x24) = true := by decide
theorem test_cld : ends { code [0xD8] with p := 0xFF } (fun t => t.p == 0xF7) = true := by decide
theorem test_sed : ends (code [0xF8]) (fun t => t.p == 0x2C) = true := by decide
theorem test_clv : ends { code [0xB8] with p := 0x64 } (fun t => t.p == 0x24 && t.cost == 2) = true := by decide
theorem test_nop : ends (code [0xEA]) (fun t => t.pc == 0x8001 && t.p == 0x24 && t.cost == 2 && t.cycles == 9) = true := by decide
theorem test_unassigned : step (code [0x02]) = .refused (.unassignedOpcode 0x02 0x8000) := by rfl
theorem test_unassigned_ff : step (code [0xFF]) = .refused (.unassignedOpcode 0xFF 0x8000) := by rfl
theorem test_run_refuses :
    (run 100 (code [0x02])).stop = some (.refused (.unassignedOpcode 0x02 0x8000)) ∧
    (run 100 (code [0x02])).state.refusal = some (0x02, 0x8000) :=
  ⟨run_of_runSteps (n := 1) (·.stop) rfl (by decide +kernel), run_of_runSteps (n := 1) (·.state.refusal) rfl (by decide +kernel)⟩
/-- With NOP at 0 cycles, `run(1)` runs the NOP and the LDA after it (64 R700). -/
theorem test_run_zeroCycles :
    let s := { code [0xEA, 0xA9, 0x80] with params := { Params.default with cycleOverrides := [(0xEA, ⟨0, false⟩)] } }
    (run 1 s).stop = none ∧ (run 1 s).state.a = 0x80 :=
  ⟨run_of_runSteps (n := 2) (·.stop) rfl (by decide +kernel), run_of_runSteps (n := 2) (·.state.a) rfl (by decide +kernel)⟩

/-! ## Interrupts and reset (95_test_vectors.md T6) -/

theorem test_nmi :
    ends { code [] with pc := 0x8123, p := 0x35, nmiPending := true, cart := { (code []).cart with prgRom := [(0x7FFB, 0xA0)] } }
      (fun t => t.pc == 0xA000 && t.sp == 0xFA && t.p == 0x35 && t.ram == [(0x1FA, 0x25), (0x1FB, 0x23), (0x1FC, 0x81)] &&
        !t.nmiPending && t.cost == 7) = true := by decide
theorem test_irq_taken :
    ends { code [0xEA] with
        p := 0x20, apu := { Apu.powerOn with frameIrq := true }, cart := { (code []).cart with prgRom := [(0x7FFF, 0x90)] } }
      (fun t => t.pc == 0x9000 && t.sp == 0xFA && t.p == 0x24 && Memory.read t.ram 0x1FA == 0x20 && t.irqLine && t.cost == 7) = true := by
  decide
theorem test_irq_masked :
    ends { code [0xEA] with apu := { Apu.powerOn with frameIrq := true } } (fun t => t.pc == 0x8001 && t.irqLine && t.cost == 2) = true := by
  decide
theorem test_nmi_first :
    ends { code [0xEA] with
        p := 0x20, nmiPending := true, apu := { Apu.powerOn with frameIrq := true }
        cart := { (code []).cart with prgRom := [(0x7FFB, 0xA0), (0x7FFF, 0x90)] } }
      (fun t => t.pc == 0xA000) = true := by decide
theorem test_resetSignal :
    nextIs ({ code [] with
        a := 0x12, x := 0x34, y := 0x56, p := 0xE3, sp := 0xF0, nmiPending := true
        cart := { (code []).cart with prgRom := [(0x7FFD, 0x80)] } } : State).resetSignal
      (fun t => t.a == 0x12 && t.x == 0x34 && t.y == 0x56 && t.p == 0xE7 && t.sp == 0xED && t.pc == 0x8000 && !t.nmiPending &&
        t.ram == [] && t.cycles == 14) = true := by decide
theorem test_powerOn :
    (({ code [] with cart := { (code []).cart with prgRom := [(0x7FFD, 0x80)] } } : State).powerOn PowerOnDraws.zero).pc = 0x8000 := by
  decide
theorem test_oamDma_odd :
    ((({ code [] with cycles := 9, cost := 4 } : State).cpuWrite 0x4014 0xFF)).cost = 518 := by decide +kernel
theorem test_oamDma_even :
    ((({ code [] with cycles := 10, cost := 4, ram := [(0x204, 0x77)] } : State).cpuWrite 0x4014 0x02)).cost = 517 ∧
    ((({ code [] with cycles := 10, cost := 4, ram := [(0x204, 0x77)] } : State).cpuWrite 0x4014 0x02)).ppu.oam = [(4, 0x77)] := by
  decide +kernel

/-! ## Devices (95_test_vectors.md T7 to T11) -/

/-- CPU writes in order. -/
def writes (s : State) (l : List (Word × Byte)) : State := l.foldl (fun u w => u.cpuWrite w.1 w.2) s

/-- A machine with mapper 1 and `n` PRG banks. -/
def mmc1Machine (n : Nat) : State :=
  { code [] with cart := { (code []).cart with mapperKind := .mmc1, nPrg := n, nChr4 := 4 } }

theorem test_openBus : ((code []).cpuRead 0x5000).1 = 0x50 ∧ ((code []).cpuRead 0x4000).1 = 0x40 := by decide
theorem test_absent : (State.reset.cpuRead 0x8000).1 = 0x00 ∧ State.reset.cpuWrite 0x8000 0x55 = State.reset := ⟨rfl, rfl⟩
theorem test_ppuMirror : (writes (code []) [(0x3FFE, 0x21), (0x3FFE, 0x08)]).ppu.v = 0x2108 := by decide
theorem test_header_fourScreen :
    (parseHeader [0x4E, 0x45, 0x53, 0x1A, 2, 1, 0x09, 0]).mirroring = .fourScreen ∧
    (parseHeader [0x4E, 0x45, 0x53, 0x1A, 2, 1, 0x01, 0]).mirroring = .vertical := by decide
theorem test_header_mapper : (parseHeader [0x4E, 0x45, 0x53, 0x1A, 2, 1, 0x10, 0x40]).mapper = 0x41 := by decide
theorem test_load_malformed (d : CartDraws) :
    (loadCart (List.replicate 16 0) d).1 = .malformed .badSignature ∧
    (loadCart ([0x4E, 0x45, 0x53, 0x1A] ++ List.replicate 12 0) d).1 = .malformed .noPrg ∧
    (loadCart ([0x4E, 0x45, 0x53, 0x1A, 2] ++ List.replicate 11 0) d).1 = .malformed .truncated := by
  exact ⟨rfl, rfl, rfl⟩
theorem test_mmc1_control :
    (writes (mmc1Machine 8) [(0x8000, 0), (0x8000, 1), (0x8000, 1), (0x8000, 1), (0x8000, 0)]).cart.mmc1.control = 0x0E := by decide
theorem test_mmc1_fifthAddress :
    (writes (mmc1Machine 8) [(0x8000, 1), (0xFFFF, 0), (0x8000, 0), (0xC000, 0), (0xA000, 0)]).cart.mmc1.chr0 = 0x01 := by decide
theorem test_mmc1_reset :
    (writes (mmc1Machine 8) [(0x8000, 1), (0x8000, 1), (0x8000, 0x80)]).cart.mmc1 = Mmc1.powerOn := by decide
theorem test_mmc1_prgWindows :
    ({ Mmc1.powerOn with prg := 0x0B }).prgWindow 8 false = 3 ∧ Mmc1.powerOn.prgWindow 8 true = 7 ∧
    ({ Mmc1.powerOn with control := 0x02, prg := 0x05 }).prgWindow 8 true = 5 ∧
    ({ Mmc1.powerOn with control := 0x0A, prg := 0x05 }).prgWindow 8 true = 5 := by decide
theorem test_mmc1_chrWindows :
    ({ Mmc1.powerOn with control := 0x10, chr0 := 3, chr1 := 1 }).chrWindow 4 true = 1 ∧
    ({ Mmc1.powerOn with control := 0x00, chr0 := 3 }).chrWindow 4 true = 3 := by decide
theorem test_ppuData_buffer :
    ((((writes (code []) [(0x2006, 0x21), (0x2006, 0x08), (0x2007, 0x55), (0x2006, 0x21), (0x2006, 0x08)]).cpuRead 0x2007).2).cpuRead
      0x2007).1 = 0x55 := by decide
theorem test_ppuData_increment32 :
    (writes (code []) [(0x2000, 0x04), (0x2006, 0x20), (0x2006, 0x00), (0x2007, 1), (0x2007, 2)]).ppu.v = 0x2040 := by decide
theorem test_palette_alias :
    ((writes (code []) [(0x2006, 0x3F), (0x2006, 0x04), (0x2007, 0xEA), (0x2006, 0x3F), (0x2006, 0x00)]).cpuRead 0x2007).1 = 0x2A := by
  decide
theorem test_palette_grey :
    ((writes { code [] with ppu := { Ppu.powerOnZero with palette := [(1, 0x2A)] } }
      [(0x2001, 0x01), (0x2006, 0x3F), (0x2006, 0x01)]).cpuRead 0x2007).1 = 0x20 := by decide
theorem test_scroll : (writes (code []) [(0x2005, 0x7D), (0x2005, 0x5E)]).ppu.t = 0x616F := by decide
theorem test_ppuStatus :
    let r := ({ code [] with ppu := { Ppu.powerOnZero with vblank := true, w := true, ioLatch := 0x1F } } : State).cpuRead 0x2002
    r.1 = 0x9F ∧ r.2.ppu.vblank = false ∧ r.2.ppu.w = false ∧ r.2.ppu.ioLatch = 0x9F := by decide
theorem test_oamData :
    (writes (code []) [(0x2003, 0xFE), (0x2004, 0x11), (0x2004, 0x22), (0x2004, 0x33)]).ppu.oam =
      [(0x00, 0x33), (0xFE, 0x11), (0xFF, 0x22)] := by decide
theorem test_oamData_attribute :
    ((writes { code [] with ppu := { Ppu.powerOnZero with oam := [(2, 0xFF)] } } [(0x2003, 0x02)]).cpuRead 0x2004).1 = 0xE3 := by
  decide
theorem test_nmi_edge :
    (writes { code [] with ppu := { Ppu.powerOnZero with vblank := true } } [(0x2000, 0x80)]).nmiPending = true := by decide
theorem test_length_loaded :
    (writes (code []) [(0x4015, 0x01), (0x4003, 0x0F)]).apu.pulse1.len = 254 ∧
    (writes (code []) [(0x4015, 0x01), (0x4003, 0xF8)]).apu.pulse1.len = 30 := by decide
theorem test_length_disabled : (writes (code []) [(0x4015, 0x00), (0x4003, 0x0F)]).apu.pulse1.len = 0 := by decide
theorem test_apuStatus :
    let r := ({ code [] with
      apu := { Apu.powerOn with frameIrq := true, pulse1 := { Pulse.powerOn with len := 254 } } } : State).cpuRead 0x4015
    r.1 = 0x41 ∧ r.2.apu.frameIrq = false := by decide
theorem test_dmc_sample :
    (writes (code []) [(0x4012, 0xFF), (0x4013, 0xFF)]).apu.dmc.sampleAddr = 0xFFC0 ∧
    (writes (code []) [(0x4012, 0xFF), (0x4013, 0xFF)]).apu.dmc.sampleLen = 4081 := by decide
theorem test_dmcStep :
    dmcStep .clamp 126 true = 127 ∧ dmcStep .hold 126 true = 126 ∧ dmcStep .clamp 1 false = 0 ∧ dmcStep .hold 1 false = 1 ∧
    dmcStep .clamp 64 true = 66 := by decide
theorem test_sweepTargets :
    let u := { Pulse.powerOn with period := 0x100, sweep := { Pulse.powerOn.sweep with shift := 1, neg := true } }
    u.target true = 0x07F ∧ u.target false = 0x080 := by decide
theorem test_sweep_muted :
    ({ Pulse.powerOn with period := 0x7FF } : Pulse).muted true = true ∧ ({ Pulse.powerOn with period := 7 } : Pulse).muted true = true := by
  decide
theorem test_noise_lfsr :
    (Noise.powerOn.tick).lfsr = 0x4000 ∧ (({ Noise.powerOn with mode := true } : Noise).tick).lfsr = 0x4000 := by decide
theorem test_advance_stall :
    (advance 2000 (code [])).state.sched.mode = .paused ∧ (advance 2000 (code [])).outputs = [] := by decide +kernel
theorem test_advance_early : (advance ((94 / 100) * (1000 / 60)) (code [])).outputs = [] := by
  rw [advance_idle rfl (by decide +kernel) (by decide +kernel) (by decide +kernel)]

/-! ## Placing and fetching -/

theorem test_withFetchWord : (State.reset.withFetchWord 16 0b10000000_10101001).ram = [(0, 0xA9), (1, 0x80)] := by decide
theorem test_step_withFetchWord : ends (State.reset.withFetchWord 16 0b10000000_10101001) (fun t => t.a == 0x80) = true := by decide
theorem test_reset_runsBrk : ends State.reset (fun t => t.pc == 0x0000 && t.sp == 0xFA && t.cost == 7) = true := by decide

/-! ## Witnesses: states and operands that meet the hypotheses of the obligations -/

theorem witness_decodeEncode :
    (Instr.jmp (.ind 0xFFFF)).wellFormed = true ∧ (Instr.lda (.imm 0x00)).wellFormed = true ∧
    (Instr.unassigned 0xFF).wellFormed = true := by decide
theorem witness_encodeDecode : decode [0x6C, 0xFF, 0x02, 0x00] = .ok (.jmp (.ind 0x02FF), [0x00]) := by decide

/-- The premises of `StepRunsDecodedInstr`, and the fetch premise of the three clauses of `StepFetchesThroughBus`. -/
theorem witness_stepRuns :
    (code [0xA9, 0x80]).refusal = none ∧ (code [0xA9, 0x80]).sched.mode = .running ∧ (code [0xA9, 0x80]).poll = .run ∧
    (code [0xA9, 0x80]).isPlainMemory 0x8000 = true ∧ (code [0xA9, 0x80]).isPlainMemory 0x8001 = true ∧
    (code [0xA9, 0x80]).isPlainMemory 0x8002 = true ∧
    decode [((code [0xA9, 0x80]).cpuRead 0x8000).1, ((code [0xA9, 0x80]).cpuRead 0x8001).1, ((code [0xA9, 0x80]).cpuRead 0x8002).1] =
      .ok (.lda (.imm 0x80), [0x00]) := by decide
/-- The boundary of plain memory: 0x1FFF and 0x6000 are, 0x2000 and 0x5FFF are not. -/
theorem witness_plainMemory :
    (code []).isPlainMemory 0x1FFF = true ∧ (code []).isPlainMemory 0x2000 = false ∧
    (code []).isPlainMemory 0x5FFF = false ∧ (code []).isPlainMemory 0x6000 = true := by decide
theorem witness_fetch_one : (code [0xEA]).poll = .run ∧ decode [((code [0xEA]).cpuRead 0x8000).1] = .ok (.nop, []) := by decide
theorem witness_fetch_two :
    decode [((code [0xA9, 0x80]).cpuRead 0x8000).1, (((code [0xA9, 0x80]).cpuRead 0x8000).2.cpuRead 0x8001).1] =
      .ok (.lda (.imm 0x80), []) := by decide
theorem witness_fetch_three :
    decode [((code [0x4C, 0x00, 0x90]).cpuRead 0x8000).1, (((code [0x4C, 0x00, 0x90]).cpuRead 0x8000).2.cpuRead 0x8001).1,
      ((((code [0x4C, 0x00, 0x90]).cpuRead 0x8000).2.cpuRead 0x8001).2.cpuRead 0x8002).1] = .ok (.jmp (.abs 0x9000), []) := by decide

/-- One state for each branch of `PollDecides`, all with no refusal kept. -/
theorem witness_poll :
    ({ code [] with sched := { Sched.powerOn with mode := .paused } } : State).sched.mode ≠ .running ∧
    ({ code [] with nmiPending := true } : State).poll = .nmi ∧
    ({ code [] with p := 0x20, apu := { Apu.powerOn with frameIrq := true } } : State).poll = .irq ∧
    ({ code [] with p := 0x20, apu := { Apu.powerOn with dmc := { Dmc.powerOn with irq := true } } } : State).poll = .irq ∧
    (code []).poll = .run ∧ (code []).refusal = none := by decide
theorem witness_irqEntry :
    let s : State := { code [] with p := 0x20, apu := { Apu.powerOn with frameIrq := true } }
    s.nmiPending = false ∧ s.irqLine = true ∧ s.flagI = false := by decide
theorem witness_rtiUndoesEntry : Memory.wf (code []).ram = true ∧ ∃ t, exec .brk (code []) = .next t := ⟨rfl, _, rfl⟩
theorem witness_refusal :
    (code [0x02]).refusal = none ∧ (code [0x02]).sched.mode = .running ∧ (code [0x02]).poll = .run ∧
    ((code [0x02]).cpuRead (code [0x02]).pc).1.toNat ∈ unassignedBytes ∧ (code [0x02]).sched.carry + 1 > 0 := by decide +kernel
theorem witness_refused : ({ code [] with refusal := some (0x02, 0x8000) } : State).refusal = some (0x02, 0x8000) := rfl

/-- The premises of every clause about the default CYCLES. -/
theorem witness_defaultCycles :
    Params.default.cycleOverrides = [] ∧ Params.default.openBusOverrides = [] ∧
    (Instr.lda (.mem (.indy 0xFF))).wellFormed = true ∧ (Instr.sta (.absx 0xFFFF)).wellFormed = true ∧
    (Instr.stx (.zpy 0xFF)).wellFormed = true ∧ (Instr.inc (.absx 0xFFFF)).wellFormed = true ∧ (Addr.absx 0xFFFF).isRmw = true := by
  decide
/-- A store to 0x4014 and one beside it. -/
theorem witness_storeDma :
    ((code []).resolve (.abs 0x4014)).1 = 0x4014 ∧ ((code []).resolve (.abs 0x4013)).1 ≠ 0x4014 := by decide
theorem witness_overflow :
    (∃ t, exec (.adc (.imm 0x7F)) (code []) = .next t) ∧ ∃ t, exec (.sbc (.imm 0x80)) (code []) = .next t := ⟨⟨_, rfl⟩, _, rfl⟩
theorem witness_jsrRts : Memory.wf (code []).ram = true ∧ ∃ t, exec (.jsr 0x9000) (code []) = .next t := ⟨rfl, _, rfl⟩
/-- A branch target on the same page, on the next and across address 0. -/
theorem witness_branches :
    BitVec.ofInt 16 ((0x8000 + 2 : Word).toNat + (0x7F : Byte).toInt) = (0x8081 : Word) ∧
    BitVec.ofInt 16 ((0x8000 + 2 : Word).toNat + (0x80 : Byte).toInt) = (0x7F82 : Word) ∧
    BitVec.ofInt 16 ((0xFFF0 + 2 : Word).toNat + (0x10 : Byte).toInt) = (0x0002 : Word) ∧
    (code []).flagC = false ∧ ({ code [] with p := 0x25 } : State).flagC = true := by decide
/-- The regions of `StoredAt` and `OperandIsReadOnce` at their edges: RAM and PRG-RAM end where the next region begins. -/
theorem witness_storedAt :
    (0x1FFF : Word).toNat < 0x2000 ∧ ¬ (0x2000 : Word).toNat < 0x2000 ∧
    (¬ (0x2000 ≤ (0x4000 : Word).toNat ∧ (0x4000 : Word).toNat < 0x4000)) ∧
    (0x6000 ≤ (0x7FFF : Word).toNat ∧ (0x7FFF : Word).toNat < 0x8000) ∧
    Memory.wf (code []).cart.prgRam = true ∧ (code []).cart.present = true := by decide
theorem witness_mirrors :
    ((0x07FF : Word).toNat % 0x800 = (0x1FFF : Word).toNat % 0x800 ∧ (0x1FFF : Word).toNat < 0x2000) ∧
    (0x2000 ≤ (0x2007 : Word).toNat ∧ (0x3FFF : Word).toNat < 0x4000 ∧ (0x2007 : Word).toNat % 8 = (0x3FFF : Word).toNat % 8) := by
  decide
theorem witness_openBus :
    (0x4000 ≤ (0x4014 : Word).toNat ∧ (0x4014 : Word).toNat ≤ 0x4014) ∧
    (0x4018 ≤ (0x401F : Word).toNat ∧ (0x401F : Word).toNat ≤ 0x401F) ∧
    ((code []).cart.present = true ∧ 0x4020 ≤ (0x5FFF : Word).toNat ∧ (0x5FFF : Word).toNat < 0x6000) ∧
    (State.reset.cart.present = false ∧ 0x4020 ≤ (0x4020 : Word).toNat) ∧
    (code []).params.openBusOverrides = [] ∧ State.reset.params.openBusOverrides = [] := by decide
theorem witness_stepKeepsRom : (∃ t, step State.reset = .next t) ∧ State.reset.cart.chrIsRam = false := ⟨⟨_, rfl⟩, rfl⟩
theorem witness_nromWindows :
    (code []).cart.present = true ∧ (code []).cart.mapperKind = .nrom ∧ 0x8000 ≤ (0xBFFF : Word).toNat ∧
    (0xBFFF : Word).toNat < 0xC000 ∧ 0xC000 ≤ (0xC000 : Word).toNat ∧
    ({ (code []).cart with nPrg := 1 } : Cart).nPrg = 1 := by decide
theorem witness_mmc1Writes :
    (mmc1Machine 8).cart.present = true ∧ (mmc1Machine 8).cart.mapperKind = .mmc1 ∧ (mmc1Machine 8).cart.mmc1.count = 0 ∧
    (∀ d ∈ [0x00, 0x01, 0x7F, 0x01, (0x00 : Byte)], d.getLsbD 7 = false) ∧
    (∀ k, k < 5 → (0x0E : BitVec 5).getLsbD k = ([0x00, 0x01, 0x7F, 0x01, (0x00 : Byte)].getD k 0).getLsbD 0) ∧
    (0x80 : Byte).getLsbD 7 = true := by decide
theorem witness_mmc1Addresses : ∀ a ∈ [0x8000, 0xFFFF, 0x8000, 0xC000, (0x9FFF : Word)], 0x8000 ≤ a.toNat := by simp
theorem witness_oamDma :
    Memory.wf (code []).ppu.oam = true ∧ (0x1F : Byte).toNat < 0x20 ∧ (code []).cart.present = true ∧ 0x60 ≤ (0x60 : Byte).toNat := by
  decide
/-- A file of one PRG bank loads; one byte less is malformed (the two branches of `LoadCartridgeReadsFile`). -/
theorem witness_loadCartridge (d : CartDraws) (n : Nat) (h : n = 16392 ∨ n = 16391) :
    (loadCart ([0x4E, 0x45, 0x53, 0x1A, 1, 0, 0, 0] ++ List.replicate n (0 : Byte)) d).1 =
      if n = 16392 then .ok else .malformed .truncated := by
  generalize hl : List.replicate n (0 : Byte) = l
  have : l.length = n := by simp [← hl]
  rcases h with rfl | rfl <;>
    simp [loadCart, parseHeader, fileByte, fileMagic, Header.dataEnd, Header.chrStart, Header.prgStart, this]
/-- A file with a trainer and one CHR bank. -/
theorem witness_loadTrainer (d : CartDraws) (bytes : List Byte)
    (h : bytes = [0x4E, 0x45, 0x53, 0x1A, 1, 1, 0x04, 0] ++ List.replicate 25096 (0xAB : Byte)) :
    (loadCart bytes d).1 = .ok ∧ (parseHeader bytes).trainer = true ∧ (parseHeader bytes).nChr = 1 := by
  generalize hl : List.replicate 25096 (0xAB : Byte) = l at h
  have : l.length = 25096 := by rw [← hl, List.length_replicate]
  simp [h, loadCart, parseHeader, fileByte, fileMagic, Header.dataEnd, Header.chrStart, Header.prgStart, this]
/-- The other two reasons, and a mapper number from both nibbles. -/
theorem witness_loadReasons (d : CartDraws) :
    (loadCart [0x4E, 0x45, 0x53, 0x1A] d).1 = .malformed .badSignature ∧
    (loadCart ([0x4E, 0x45, 0x53, 0x1A] ++ List.replicate 12 0) d).1 = .malformed .noPrg ∧
    (0x21 : BitVec 8).toNat = 16 * ((0x2F : Byte).toNat / 16) + (0x1F : Byte).toNat / 16 := ⟨rfl, rfl, by decide⟩
/-- The strobe values and the strobed state of `ControllerReadsGiveButtons`. -/
theorem witness_controllers :
    (0x01 : Byte).getLsbD 0 = true ∧ (0xFE : Byte).getLsbD 0 = false ∧ ((code []).cpuWrite 0x4016 0xFF).pads.strobe = true := by
  decide
/-- The pointer bytes of `AddressingModesResolve`: the second byte of JMP's pointer stays in its page. -/
theorem witness_addressingModes :
    (0x1000 : Word).toNat = 256 * ((0x10FF : Word).toNat / 256) + ((0x10FF : Word).toNat + 1) % 256 ∧
    (0x1100 : Word).toNat = 256 * ((0x11FF : Word).toNat / 256) + ((0x11FF : Word).toNat + 1) % 256 := by decide
/-- The lowest and the highest address of `VramReadsBack`. -/
theorem witness_vramReadBack :
    (code []).ppu.w = false ∧ Memory.wf (code []).ppu.ciram = true ∧ Memory.wf (code []).cart.vramExtra = true ∧
    0x2000 ≤ 256 * ((0x20 : Byte).toNat % 0x40) + (0x00 : Byte).toNat ∧
    256 * ((0x3E : Byte).toNat % 0x40) + (0xDF : Byte).toNat + 32 < 0x3F00 := by decide
/-- A state for each branch of `DotAdvancesRaster`. -/
theorem witness_dotTiming :
    let at_ := fun line dot => ({ code [] with ppu := { Ppu.powerOnZero with
      scanline := line, dot := dot, mask := 0x08, oddFrame := true, ctrl := 0x80 } } : State)
    Safety.NmiOutputOk (at_ 261 339) ∧ (at_ 261 339).ppu.rendering = true ∧ (at_ 261 339).params.oddFrameSkip = true ∧
    Safety.NmiOutputOk (at_ 241 1) ∧ Safety.NmiOutputOk (at_ 261 1) ∧ Safety.NmiOutputOk (at_ 261 340) ∧
    dotPos (at_ 261 340).ppu = 89341 := by decide
theorem witness_ctrlWriteNmi : Safety.NmiOutputOk { code [] with ppu := { Ppu.powerOnZero with vblank := true } } := by decide
theorem witness_firstVblank : (code []).ppu.scanline = 0 ∧ (code []).ppu.dot = 0 := by decide
/-- Two addresses served from one RAM under horizontal mirroring, and two that are not. -/
theorem witness_nametableMirroring :
    (0x2005 : PpuAddr).toNat % 1024 = (0x2405 : PpuAddr).toNat % 1024 ∧
    ntHalf .horizontal ((0x2005 : PpuAddr).toNat / 1024 % 4) = ntHalf .horizontal ((0x2405 : PpuAddr).toNat / 1024 % 4) ∧
    ntHalf .horizontal ((0x2405 : PpuAddr).toNat / 1024 % 4) ≠ ntHalf .horizontal ((0x2805 : PpuAddr).toNat / 1024 % 4) ∧
    0x2000 ≤ (0x2000 : PpuAddr).toNat ∧ (0x3EFF : PpuAddr).toNat < 0x3F00 := by decide
theorem witness_triangleSequence :
    let u : Triangle := { Triangle.powerOn with len := 254, lin := 0x7F, period := 0x7FF }
    u.len ≠ 0 ∧ u.lin ≠ 0 ∧ u.timer = 0 ∧ u.seq = 0 := by decide
theorem witness_frameSequencer :
    (Apu.powerOn.fcMode = false ∧ ({ Apu.powerOn with fcCycle := 29829 } : Apu).fcCycle < 29830) ∧
    (({ Apu.powerOn with fcMode := true, fcCycle := 37281 } : Apu).fcMode = true ∧ 37281 < 37282) := by decide
/-- A sweep that updates, at the highest target, and one that is muted one past it. -/
theorem witness_sweepTarget :
    let u := fun p : BitVec 11 => { Pulse.powerOn with period := p, sweep := { Pulse.powerOn.sweep with en := true, shift := 1 } }
    (u 0x555).sweep.div = 0 ∧ (u 0x555).sweep.shift ≠ 0 ∧ (u 0x555).target true = 0x7FF ∧ (u 0x556).target true = 0x801 ∧
    ((u 0x555).clockSweep true).period = 0x7FF ∧ ((u 0x556).clockSweep true).period = 0x556 := by decide
theorem witness_resetSignal : (code []).sched.mode ≠ .stopped := by decide
theorem witness_runCountsCycles :
    (run 1 (code [0xEA])).stop = none ∧ (code [0xEA]).params.cycleOverrides = [] :=
  ⟨run_of_runSteps (n := 1) (·.stop) rfl (by decide +kernel), rfl⟩
/-- A stall; and a call that leaves the machine running, with the default parameters. -/
theorem witness_lagBound :
    (code []).sched.mode = .running ∧ (code []).sched.acc + 1001 > (code []).pacing.stallThreshold ∧
    (0 : Rat) < (code []).pacing.framePeriod ∧ 0 ≤ (code []).pacing.paceTolerance ∧
    1 - (code []).pacing.paceTolerance ≤ (code []).pacing.dropThreshold ∧
    -((code []).pacing.paceTolerance * (code []).pacing.framePeriod) ≤ (code []).sched.acc := by decide +kernel
theorem witness_lagBound_running :
    advanceWith (code []).pacing 0 1 (code []) = { acc := 0 + 1, frames := { state := code [], outputs := [], stop := none } } :=
  advanceWith_idle rfl (by decide +kernel) (by decide +kernel) (by decide +kernel)
/-- A loop that ends; and the two premises under which every loop ends, the first at its boundary for the fastest rate. -/
theorem witness_catchUpEnds :
    State.catchUpLoop 0 0 (code []) = some (code []) ∧ Params.default.dmcStall < 8 * Dmc.powerOn.rate ∧
    (431 < 8 * ({ Dmc.powerOn with rateIdx := 15 } : Dmc).rate ∧ ¬ 432 < 8 * ({ Dmc.powerOn with rateIdx := 15 } : Dmc).rate) ∧
    Dmc.powerOn.loop = false := ⟨rfl, by decide⟩
/-- The invariant with no cartridge and with one; each takes a step. -/
theorem witness_stepKeepsInv (s : State) (h : s = State.reset ∨ s = { code [0xEA] with p := 0x24 }) :
    Safety.Inv s ∧ ∃ t, step s = .next t := by
  rcases h with rfl | rfl <;>
  exact ⟨⟨⟨by decide, by decide, by decide, by decide, by decide, by decide, by decide, by decide, by decide, by decide, by decide⟩,
    ⟨by decide, by decide, by decide, by decide, by decide, by decide, by decide, by decide⟩, by decide, by decide⟩, _, rfl⟩

end Sys2Proof.Tests
end

section
/-! PROOFS. The opcode map row by row (30_encoding.md R129, R131, R133): what three bytes decode to, that every row completes to an
instruction whose opcode is the row's byte, and that the listed bytes are the unassigned rows. -/

namespace Sys2Proof

/-- Three bytes hold any instruction: its format completes with the bytes after the opcode, and gives back those it does not use. -/
theorem decode_cons_cons_cons (op b1 b2 : Byte) (rest : List Byte) :
    decode (op :: b1 :: b2 :: rest) =
      .ok ((opcodeFormat op).complete b1 b2, (b1 :: b2 :: rest).drop ((opcodeFormat op).length - 1)) := by
  simp only [decode]
  cases opcodeFormat op <;> rfl

/-- The decoder's table and the encoder's agree at every opcode byte, whatever the operand: one row of both for each of the 256. -/
theorem opcode_complete_opcodeFormat (op b1 b2 : Byte) : ((opcodeFormat op).complete b1 b2).opcode = some op := by
  obtain ⟨⟨n, hn⟩⟩ := op
  interval_cases n <;> rfl

theorem unassignedBytes_length : unassignedBytes.length = 105 := rfl

theorem unassignedBytes_nodup : unassignedBytes.Nodup := by decide

theorem opcodeFormat_of_mem_unassignedBytes {op : Byte} (h : op.toNat ∈ unassignedBytes) :
    opcodeFormat op = .f1 (.unassigned op) := by
  have row : ∀ n ∈ unassignedBytes, opcodeFormat (.ofNat 8 n) = .f1 (.unassigned (.ofNat 8 n)) := by
    rw [← List.forall_iff_forall_mem]
    and_intros <;> rfl
  simpa using row _ h

theorem opcode_unassigned_eq_some_iff {u op : Byte} :
    (Instr.unassigned u).opcode = some op ↔ u.toNat ∈ unassignedBytes ∧ u = op := by
  simp [Instr.opcode]

/-- Settles O3: a listed byte's row is the unassigned one, and an unassigned instruction has an opcode only at a listed byte. -/
theorem everyByteDecodes : Obligations.EveryByteDecodes := by
  refine ⟨unassignedBytes_length, unassignedBytes_nodup, fun op b1 b2 =>
    ⟨_, _, decode_cons_cons_cons op b1 b2 [], opcode_complete_opcodeFormat op b1 b2, ?_⟩⟩
  split
  case isTrue listed => rw [opcodeFormat_of_mem_unassignedBytes listed, Format.complete]
  case isFalse notListed =>
    intro u hu
    have hop := opcode_complete_opcodeFormat op b1 b2
    rw [hu, opcode_unassigned_eq_some_iff] at hop
    obtain ⟨listed, rfl⟩ := hop
    exact notListed listed

end Sys2Proof
end

section
/-! PROOFS. The vocabulary of the statements, once each: Z and N after SetZN, the frame and the page-cross cost of an instruction that
reads an operand, and the stack slots of a push and a pull (10_state.md R37, R41; 70_reset_and_hazards.md R770). -/

namespace Sys2Proof

open Machine Claims

variable {s t u : State} {m : Src} {f : Byte → State → State} {mk : Src → Instr} {d : Byte}

/-! Z and N. -/

theorem zn_of_p_eq_setZN (h : t.p = (u.setZN d).p) : ZN t d := by
  have hz : t.flagZ = (u.setZN d).flagZ := by rw [State.flagZ, h, State.flagZ]
  have hn : t.flagN = (u.setZN d).flagN := by rw [State.flagN, h, State.flagN]
  exact ⟨hz.trans (State.setZN_flagZ u d), hn.trans (State.setZN_flagN u d)⟩

theorem keepsFlags_of_p_eq_setZN (h : t.p = (u.setZN d).p) (hu : u.p = s.p) : KeepsFlags s t [1, 7] := by
  intro j hj hw
  obtain ⟨h1, h7⟩ : j ≠ 1 ∧ j ≠ 7 := by simpa using hw
  rw [h, State.getLsbD_setZN u d hj, if_neg h7, if_neg h1, hu]

/-! An instruction that reads an operand and then changes A, X, Y and P. -/

/-- The effect of a reading instruction changes A, X, Y and P, and nothing else. -/
def ChangesRegs (f : Byte → State → State) : Prop :=
  ∀ d u, f d u = { u with a := (f d u).a, x := (f d u).x, y := (f d u).y, p := (f d u).p }

/-- `State.reading_eq` for an effect that changes A, X, Y and P only. -/
theorem reading_eq_of_changesRegs (hf : ChangesRegs f) (s : State) (i : Instr) (m : Src) :
    s.reading i m f = { (s.operand m).2.2 with
      a := (s.reading i m f).a, x := (s.reading i m f).x, y := (s.reading i m f).y, p := (s.reading i m f).p
      cost := s.cost + if (s.operand m).2.1 && (instrCycles s.params i).pageCross then 1 else 0
      pc := s.pc + BitVec.ofNat 16 (1 + m.size) } :=
  State.reading_eq s i m f (fun d => ((f d (s.operand m).2.2).a, (f d (s.operand m).2.2).x, (f d (s.operand m).2.2).y,
    (f d (s.operand m).2.2).p)) (hf _ _)

theorem readFrame_reading (hf : ChangesRegs f) (s : State) (i : Instr) (m : Src) : ReadFrame s (s.reading i m f) m := by
  rw [reading_eq_of_changesRegs hf]
  exact ⟨rfl, by simp, by simp [SameMemory]⟩

/-- An ill-formed instruction, or one whose opcode 70_reset_and_hazards.md R770 marks `*`. -/
def crossMarked (i : Instr) : Bool := !i.wellFormed || i.opcode.any (pageCrossOpcodes.contains ·.toNat)

theorem instrCycles_pageCross_of_crossMarked {pr : Params} {i : Instr} (hpr : pr.cycleOverrides = [])
    (hi : i.wellFormed = true) (hm : crossMarked i = true) : (instrCycles pr i).pageCross = true := by
  obtain ⟨op, hop, hmem⟩ : ∃ op, i.opcode = some op ∧ pageCrossOpcodes.contains op.toNat = true := by
    simpa [crossMarked, hi, Option.any_eq_true] using hm
  rw [instrCycles_pageCross hpr hop, hmem]

/-- The forms of a reading instruction that can cross a page (`State.operand_cross`) are marked where they exist. -/
structure CrossFormsMarked (mk : Src → Instr) : Prop where
  absx : ∀ w, crossMarked (mk (.mem (.absx w))) = true
  absy : ∀ w, crossMarked (mk (.mem (.absy w))) = true
  indy : ∀ b, crossMarked (mk (.mem (.indy b))) = true

theorem readCost_reading (hf : ChangesRegs f) (hmk : CrossFormsMarked mk) (s : State) (m : Src) :
    ReadCost s (s.reading (mk m) m f) (mk m) (s.operand m).2.1 := by
  have hcost : (s.reading (mk m) m f).cost =
      s.cost + if (s.operand m).2.1 && (instrCycles s.params (mk m)).pageCross then 1 else 0 := by
    rw [reading_eq_of_changesRegs hf]
  refine ⟨hcost, fun hpr hwf => ?_⟩
  rw [hcost]
  cases hc : (s.operand m).2.1 with
  | false => rfl
  | true =>
    have hm : crossMarked (mk m) = true := by
      obtain ⟨w, rfl⟩ | ⟨w, rfl⟩ | ⟨b, rfl⟩ := State.operand_cross hc
      · exact hmk.absx w
      · exact hmk.absy w
      · exact hmk.indy b
    rw [instrCycles_pageCross_of_crossMarked hpr hwf hm]
    rfl

/-! The stack. -/

theorem pushSlot_eq (s : State) (k : Nat) : pushSlot s k = 256 + (s.pushSp - BitVec.ofNat 8 k).toNat := rfl

theorem pullSlot_eq (s : State) (k : Nat) : pullSlot s k = 256 + (s.pullSp + BitVec.ofNat 8 k).toNat := rfl

theorem pull_eq_pulled (s : State) : s.pull = (pulled s 0, { s with sp := s.sp + 1 }) := by
  rw [State.pull_eq, pulled, pullSlot_eq, BitVec.add_zero]

theorem pushed_push (s : State) (d : Byte) : Pushed s (s.push d) [d] := by
  have hslot : pushSlot s 0 = 256 + s.pushSp.toNat := by rw [pushSlot_eq, BitVec.sub_zero]
  refine ⟨State.push_sp s d, fun hwf => ⟨fun k hk => ?_, fun j hj => ?_⟩⟩
  · obtain rfl : k = 0 := by simpa using hk
    rw [State.push_ram, hslot, Memory.read_write_same _ _ hwf]
    rfl
  · rw [State.push_ram, ← hslot, Memory.read_write_other _ hwf (hj 0 (by simp))]

/-- A push that ends an instruction of one byte changes SP, PC and RAM, and nothing else. -/
theorem push_advance_frame (s : State) (d : Byte) :
    (s.push d).advance 1 =
      { s with sp := ((s.push d).advance 1).sp, ram := ((s.push d).advance 1).ram, pc := s.pc + 1 } := by
  rw [State.push_eq]
  rfl

end Sys2Proof
end

section
/-! PROOFS. Loads, transfers and stack instructions (40_load_store.md R151 to R153, R160 to R165, R180 to R183). -/

namespace Sys2Proof

open Machine Claims

/-- The register update `r` changes A, X and Y, and nothing else. -/
def ChangesAxy (r : State → Byte → State) : Prop :=
  ∀ u d, r u d = { u with a := (r u d).a, x := (r u d).x, y := (r u d).y }

theorem changesRegs_setZN {r : State → Byte → State} (hr : ChangesAxy r) : ChangesRegs fun d u => (r u d).setZN d := by
  intro d u
  dsimp only
  rw [hr u d]
  rfl

/-- What the loads share: SetZN of the operand, on top of the frame and the cost of a reading instruction. -/
theorem load_spec (r : State → Byte → State) {mk : Src → Instr} {s t : State} {m : Src}
    (ht : t = s.reading (mk m) m fun d u => (r u d).setZN d) (hr : ChangesAxy r) (hmk : CrossFormsMarked mk) :
    ZN t (s.operand m).1 ∧ KeepsFlags s t [1, 7] ∧ ReadFrame s t m ∧ ReadCost s t (mk m) (s.operand m).2.1 := by
  have hp : (r (s.operand m).2.2 (s.operand m).1).p = s.p := by rw [hr, State.operand_p]
  subst ht
  exact ⟨zn_of_p_eq_setZN rfl, keepsFlags_of_p_eq_setZN rfl hp, readFrame_reading (changesRegs_setZN hr) s _ m,
    readCost_reading (changesRegs_setZN hr) hmk s m⟩

theorem crossFormsMarked_lda : CrossFormsMarked .lda := ⟨fun _ => rfl, fun _ => rfl, fun _ => rfl⟩
theorem crossFormsMarked_ldx : CrossFormsMarked .ldx := ⟨fun _ => rfl, fun _ => rfl, fun _ => rfl⟩
theorem crossFormsMarked_ldy : CrossFormsMarked .ldy := ⟨fun _ => rfl, fun _ => rfl, fun _ => rfl⟩

/-- Settles O14: the opcodes row by row; then each load puts the operand in its register, keeps the other two, and does what the
loads share. -/
theorem loadsSetRegisterAndFlags : Obligations.LoadsSetRegisterAndFlags := by
  refine ⟨fun _ _ => rfl, fun _ _ => rfl, fun _ _ => rfl, fun m s => ⟨?lda, ?ldx, ?ldy⟩⟩
  case lda =>
    exact ⟨_, rfl, rfl, State.operand_x, State.operand_y, load_spec State.setA rfl (fun _ _ => rfl) crossFormsMarked_lda⟩
  case ldx =>
    exact ⟨_, rfl, rfl, State.operand_a, State.operand_y, load_spec State.setX rfl (fun _ _ => rfl) crossFormsMarked_ldx⟩
  case ldy =>
    exact ⟨_, rfl, rfl, State.operand_a, State.operand_x, load_spec State.setY rfl (fun _ _ => rfl) crossFormsMarked_ldy⟩

/-- Settles O16: each transfer is its register update, then SetZN (but for TXS), then PC past the instruction. -/
theorem transfersCopyRegister : Obligations.TransfersCopyRegister := by
  refine ⟨rfl, fun s => ⟨?tax, ?tay, ?txa, ?tya, ?tsx, ?txs⟩⟩
  case txs => rfl
  all_goals exact ⟨_, rfl, rfl, zn_of_p_eq_setZN rfl, keepsFlags_of_p_eq_setZN rfl rfl⟩

theorem exec_pla (s : State) :
    exec .pla s = .next (((({ s with sp := s.sp + 1 } : State).setA (pulled s 0)).setZN (pulled s 0)).advance 1) := by
  simp only [exec, execPla, pull_eq_pulled]

theorem exec_plp (s : State) :
    exec .plp s = .next { s with p := pulled s 0 ||| 0x20, sp := s.sp + 1, pc := s.pc + 1 } := by
  simp only [exec, execPlp, pull_eq_pulled]
  rfl

/-- Settles O17: PHA and PHP are one push, PLA and PLP one pull; a pull after a push is `State.pull_push`. -/
theorem stackPushesAndPulls : Obligations.StackPushesAndPulls := by
  refine ⟨rfl, fun s => ⟨?pha, ?php, ?pla, ?plp⟩, fun s d hwf => ?pullAfterPush⟩
  case pha => exact ⟨_, rfl, pushed_push s _, push_advance_frame s _⟩
  case php => exact ⟨_, rfl, pushed_push s _, push_advance_frame s _⟩
  case pla => exact ⟨_, exec_pla s, rfl, zn_of_p_eq_setZN rfl, keepsFlags_of_p_eq_setZN rfl rfl, rfl⟩
  case plp => exact exec_plp s
  case pullAfterPush =>
    rw [State.pull_push s d hwf]
    exact ⟨rfl, rfl⟩

end Sys2Proof
end

section
/-! PROOFS. What the arithmetic and logic instructions share: the flags their effects write, the operand they read, and the one
read and one write of a read-modify-write instruction (41_arith_logic.md R200, R240). -/

namespace Sys2Proof

open Machine Claims

variable {s t u : State} {m : Src} {c b : Bool} {r : Byte} {i : Nat} {ws ws' : List Nat}

/-! Flags. -/

theorem keepsFlags_of_p_eq_setBit (hp : t.p = setBit s.p i b) : KeepsFlags s t [i] := by
  intro j hj hw
  rw [hp, getLsbD_setBit _ hj, if_neg (by simpa using hw)]

theorem keepsFlags_trans (hsu : KeepsFlags s u ws) (hut : KeepsFlags u t ws') (hws : ws' ⊆ ws) : KeepsFlags s t ws :=
  fun j hj hw => (hut j hj fun h => hw (hws h)).trans (hsu j hj hw)

theorem keepsFlags_mono (h : KeepsFlags s t ws') (hws : ws' ⊆ ws) : KeepsFlags s t ws :=
  fun j hj hw => h j hj fun h' => hw (hws h')

/-- C, Z and N after the flag operation that comparisons, shifts, ADC and SBC end with. -/
theorem flags_of_p_eq_shiftFlags (hp : t.p = (s.shiftFlags c r).p) :
    t.flagC = c ∧ ZN t r ∧ KeepsFlags s t [0, 1, 7] := by
  refine ⟨?carry, zn_of_p_eq_setZN hp, ?kept⟩
  case carry => simp [State.flagC, hp, State.shiftFlags]
  case kept =>
    have hc : KeepsFlags s (s.setC c) [0, 1, 7] := keepsFlags_mono (keepsFlags_of_p_eq_setBit rfl) (by simp)
    exact keepsFlags_trans hc (keepsFlags_of_p_eq_setZN hp rfl) (by simp)

theorem shiftFlags_p_congr (h : u.p = s.p) : (u.shiftFlags c r).p = (s.shiftFlags c r).p := by
  simp [State.shiftFlags, h]

/-! An instruction that reads an operand: its effect is that on the machine after the read. -/

@[simp] theorem operand_flagC : (s.operand m).2.2.flagC = s.flagC := by simp [State.flagC]

section

variable {f : Byte → State → State} {ins : Instr}

@[simp] theorem reading_a : (s.reading ins m f).a = (f (s.operand m).1 (s.operand m).2.2).a := rfl
@[simp] theorem reading_x : (s.reading ins m f).x = (f (s.operand m).1 (s.operand m).2.2).x := rfl
@[simp] theorem reading_y : (s.reading ins m f).y = (f (s.operand m).1 (s.operand m).2.2).y := rfl
@[simp] theorem reading_p : (s.reading ins m f).p = (f (s.operand m).1 (s.operand m).2.2).p := rfl

theorem keepsFlags_reading (h : KeepsFlags (s.operand m).2.2 (f (s.operand m).1 (s.operand m).2.2) ws) :
    KeepsFlags s (s.reading ins m f) ws :=
  fun j hj hw => (h j hj hw).trans (by rw [State.operand_p])

end

/-! A read-modify-write instruction on memory. -/

/-- A bus write does with the memories what `StoredAt` says, address range by address range (61_bus_cartridge.md R461). -/
theorem storedAt_cpuWrite (s : State) (ea : Word) (d : Byte) : StoredAt s (s.cpuWrite ea d) ea d := by
  refine ⟨fun hwf hea => ?ramAt, fun hwf j hj => ?ramOther, fun hwf hpr hlo hhi => ?prgRamAt, fun hwf j hj => ?prgRamOther,
    ?prgRom, State.cpuWrite_oam, State.cpuWrite_ppuMemories⟩
  case ramAt =>
    rw [State.cpuWrite_of_ram hea]
    exact Memory.read_write_same _ _ hwf
  case ramOther =>
    by_cases hea : ea.toNat < 0x2000
    · rw [State.cpuWrite_of_ram hea]
      exact Memory.read_write_other _ hwf (hj hea)
    · rw [State.cpuWrite_ram_other (by omega)]
  case prgRamAt => rw [State.cpuWrite_prgRam, if_pos ⟨hpr, hlo, hhi⟩, Memory.read_write_same _ _ hwf]
  case prgRamOther =>
    rw [State.cpuWrite_prgRam]
    split
    case isTrue h =>
      obtain ⟨-, hlo, hhi⟩ := h
      exact Memory.read_write_other _ hwf (hj hlo hhi)
    case isFalse => rfl
  case prgRom => rw [State.cpuWrite_cart_frame]

/-- The machine after a read and then a write of `d` at the address `ea` (41_arith_logic.md R240). -/
def rewritten (s : State) (ea : Word) (d : Byte) : State := (s.cpuRead ea).2.cpuWrite ea d

@[simp] theorem rewritten_a (s : State) (ea : Word) (d : Byte) : (rewritten s ea d).a = s.a := by simp [rewritten]
@[simp] theorem rewritten_x (s : State) (ea : Word) (d : Byte) : (rewritten s ea d).x = s.x := by simp [rewritten]
@[simp] theorem rewritten_y (s : State) (ea : Word) (d : Byte) : (rewritten s ea d).y = s.y := by simp [rewritten]
@[simp] theorem rewritten_sp (s : State) (ea : Word) (d : Byte) : (rewritten s ea d).sp = s.sp := by simp [rewritten]
@[simp] theorem rewritten_p (s : State) (ea : Word) (d : Byte) : (rewritten s ea d).p = s.p := by simp [rewritten]

theorem storedAt_rewritten (s : State) (ea : Word) (d : Byte) : StoredAt s (rewritten s ea d) ea d := by
  unfold rewritten
  simpa only [StoredAt, State.cpuRead_ram, State.cpuRead_cart, State.cpuRead_ppu_oam, State.cpuRead_ppu_ciram,
    State.cpuRead_ppu_palette] using storedAt_cpuWrite (s.cpuRead ea).2 ea d

theorem rewritten_frame (s : State) (ea : Word) (d : Byte) :
    rewritten s ea d = { s with
      ram := (rewritten s ea d).ram, cart := (rewritten s ea d).cart, pads := (rewritten s ea d).pads
      ppu := (rewritten s ea d).ppu, apu := (rewritten s ea d).apu, nmiPending := (rewritten s ea d).nmiPending
      cost := (rewritten s ea d).cost, draws := (rewritten s ea d).draws } := by
  unfold rewritten
  rw [State.cpuWrite_frame, State.cpuRead_frame]

/-- The flag effect of a read-modify-write instruction changes P, and nothing else. -/
def ChangesP (g : Byte → Byte → State → State) : Prop := ∀ d r u, g d r u = { u with p := (g d r u).p }

section

variable {f : Byte → Bool → Byte} {g : Byte → Byte → State → State} {mk : Addr → Instr} {m : Addr}

theorem modifying_eq_rewritten (hg : ChangesP g) (hr : r = f (s.cpuRead (s.resolve m).1).1 s.flagC) (ins : Instr) :
    s.modifying ins m f g = { rewritten s (s.resolve m).1 r with
      p := (g (s.cpuRead (s.resolve m).1).1 r (rewritten s (s.resolve m).1 r)).p
      pc := s.pc + BitVec.ofNat 16 (1 + m.size)
      cost := (rewritten s (s.resolve m).1 r).cost +
        if (s.resolve m).2.1 && (instrCycles s.params ins).pageCross then 1 else 0 } := by
  subst hr
  rw [State.modifying_eq, hg]
  simp [State.chargeCross, State.advance, State.setPc, State.addCost, State.pcNext, rewritten]

/-- A read-modify-write instruction is one read and one write of its result `r`, then P, PC and the cost. -/
theorem modifying_frame (hg : ChangesP g) (hr : r = f (s.cpuRead (s.resolve m).1).1 s.flagC) {ins : Instr}
    (ht : t = s.modifying ins m f g) :
    t = { rewritten s (s.resolve m).1 r with p := t.p, pc := t.pc, cost := t.cost } ∧
      t.p = (g (s.cpuRead (s.resolve m).1).1 r (rewritten s (s.resolve m).1 r)).p := by
  rw [modifying_eq_rewritten hg hr] at ht
  subst ht
  exact ⟨rfl, rfl⟩

/-- With the default CYCLES a read-modify-write instruction in one of its modes pays no page cross: only the mode `absx` can
cross a page, and its opcode `op` is not marked (70_reset_and_hazards.md R770, R771). -/
theorem modifying_cross_free {o0 o1 o2 op : Byte} (hmk : RmwEncoding mk [o0, o1, o2, op])
    (hop : pageCrossOpcodes.contains op.toNat = false) (hpr : s.params.cycleOverrides = []) (hm : m.isRmw = true) :
    ((s.resolve m).2.1 && (instrCycles s.params (mk m)).pageCross) = false := by
  cases hc : (s.resolve m).2.1 with
  | false => rfl
  | true =>
    obtain ⟨w, rfl⟩ | ⟨w, rfl⟩ | ⟨b, rfl⟩ := State.resolve_cross hc
    · obtain ⟨-, -, -, habsx⟩ : _ ∧ _ ∧ _ ∧ (mk (.absx w)).opcode = some op := by simpa using hmk 0 w
      rw [instrCycles_pageCross hpr habsx, hop]
      rfl
    · exact absurd hm Bool.false_ne_true
    · exact absurd hm Bool.false_ne_true

/-- What the read-modify-write instructions share beside their flags: the write of the result `r` and what it leaves alone. -/
theorem modifying_spec {o0 o1 o2 op : Byte} (hmk : RmwEncoding mk [o0, o1, o2, op])
    (hop : pageCrossOpcodes.contains op.toNat = false) (hg : ChangesP g)
    (hr : r = f (s.cpuRead (s.resolve m).1).1 s.flagC) (ht : t = s.modifying (mk m) m f g) :
    t.a = s.a ∧ t.x = s.x ∧ t.y = s.y ∧ t.sp = s.sp ∧ StoredAt s t (s.resolve m).1 r ∧ StoreFrame s t (1 + m.size) ∧
      (s.params.cycleOverrides = [] → m.isRmw = true → t.cost = (rewritten s (s.resolve m).1 r).cost) := by
  rw [modifying_eq_rewritten hg hr] at ht
  subst ht
  refine ⟨by simp, by simp, by simp, by simp, storedAt_rewritten s _ r, ?frame, fun hpr hm => ?cost⟩
  case frame =>
    unfold StoreFrame
    rw [rewritten_frame]
  case cost => simp [modifying_cross_free hmk hop hpr hm]

end

end Sys2Proof
end

section
/-! PROOFS. Arithmetic and logic instructions (41_arith_logic.md R205 to R213, R220 to R225, R230 to R233). -/

namespace Sys2Proof

open Machine Claims

variable {s t : State} {m : Src} {mk : Src → Instr}

/-! ADC and SBC. -/

/-- The effect ADC and SBC share: the result byte, C and Z and N of the pre-wrap value `pre`, V by `ovf`
(41_arith_logic.md R200, R201). -/
def carryArith (pre : Byte → Byte → Bool → Nat) (ovf : Byte → Byte → Byte → Bool) (d : Byte) (u : State) : State :=
  let r := wrap (pre u.a d u.flagC)
  (((u.setV (ovf u.a d r)).setC (carryOf (pre u.a d u.flagC))).setA r).setZN r

theorem addWithCarry_eq_carryArith (u : State) (d : Byte) : u.addWithCarry d = carryArith preAdd overflowAdd d u := rfl

theorem subWithCarry_eq_carryArith (u : State) (d : Byte) : u.subWithCarry d = carryArith preSub overflowSub d u := rfl

/-- What ADC and SBC do with registers and flags, over their pre-wrap value and V, on top of the frame and the cost of a reading
instruction. -/
theorem carryArith_spec (pre : Byte → Byte → Bool → Nat) (ovf : Byte → Byte → Byte → Bool)
    (ht : t = s.reading (mk m) m (carryArith pre ovf)) (hmk : CrossFormsMarked mk) :
    t.a = wrap (pre s.a (s.operand m).1 s.flagC) ∧ t.flagC = carryOf (pre s.a (s.operand m).1 s.flagC) ∧
    t.flagV = ovf s.a (s.operand m).1 t.a ∧ ZN t t.a ∧ t.x = s.x ∧ t.y = s.y ∧
    KeepsFlags s t [0, 1, 6, 7] ∧ ReadFrame s t m ∧ ReadCost s t (mk m) (s.operand m).2.1 := by
  have hf : ChangesRegs (carryArith pre ovf) := fun _ _ => rfl
  have ha : t.a = wrap (pre s.a (s.operand m).1 s.flagC) := by simp [ht, carryArith]
  have hp : t.p = ((s.setV (ovf s.a (s.operand m).1 t.a)).shiftFlags
      (carryOf (pre s.a (s.operand m).1 s.flagC)) t.a).p := by
    simp [ht, carryArith, State.shiftFlags]
  obtain ⟨hc, hzn, hkeep⟩ := flags_of_p_eq_shiftFlags hp
  have hv : t.flagV = (s.setV (ovf s.a (s.operand m).1 t.a)).flagV := hkeep 6 (by decide) (by decide)
  have hsv : KeepsFlags s (s.setV (ovf s.a (s.operand m).1 t.a)) [0, 1, 6, 7] :=
    keepsFlags_mono (keepsFlags_of_p_eq_setBit rfl) (by simp)
  refine ⟨ha, hc, hv.trans (by simp [State.flagV]), hzn, by simp [ht, carryArith], by simp [ht, carryArith],
    keepsFlags_trans hsv hkeep (by simp), ?_, ?_⟩
  · rw [ht]; exact readFrame_reading hf s _ m
  · rw [ht]; exact readCost_reading hf hmk s m

theorem crossFormsMarked_adc : CrossFormsMarked .adc := ⟨fun _ => rfl, fun _ => rfl, fun _ => rfl⟩
theorem crossFormsMarked_sbc : CrossFormsMarked .sbc := ⟨fun _ => rfl, fun _ => rfl, fun _ => rfl⟩

/-- Settles O18: the pre-wrap value of ADC is the sum of R205, and V of ADC is the one of R205. -/
theorem adcAddsWithCarry : Obligations.AdcAddsWithCarry :=
  ⟨fun _ _ => rfl, fun _ _ => ⟨_, rfl, carryArith_spec preAdd overflowAdd rfl crossFormsMarked_adc⟩⟩

/-- The pre-wrap value of SBC is 256 more than the difference of R206. -/
theorem preSub_eq (a d : Byte) (c : Bool) : (preSub a d c : Int) = a.toNat - d.toNat - (1 - c.toNat) + 256 := by
  have := d.isLt
  rw [preSub, BitVec.toNat_not]
  omega

theorem wrap_preSub_eq_ofInt (a d : Byte) (c : Bool) :
    wrap (preSub a d c) = BitVec.ofInt 8 (a.toNat - d.toNat - (1 - c.toNat)) := by
  rw [wrap, ← BitVec.ofInt_natCast, preSub_eq]
  apply BitVec.eq_of_toNat_eq
  rw [BitVec.toNat_ofInt, BitVec.toNat_ofInt]
  omega

theorem carryOf_preSub_eq_nonneg (a d : Byte) (c : Bool) :
    carryOf (preSub a d c) = decide ((0 : Int) ≤ a.toNat - d.toNat - (1 - c.toNat)) := by
  have := preSub_eq a d c
  rw [carryOf, decide_eq_decide]
  omega

/-- Settles O19: the pre-wrap value of SBC is 256 more than the difference, so it wraps to it and carries when it is not
negative. -/
theorem sbcSubtractsWithBorrow : Obligations.SbcSubtractsWithBorrow := by
  refine ⟨fun _ _ => rfl, fun m s => ?_⟩
  obtain ⟨ha, hc, rest⟩ := carryArith_spec (s := s) (m := m) preSub overflowSub rfl crossFormsMarked_sbc
  exact ⟨_, rfl, ha.trans (wrap_preSub_eq_ofInt ..), hc.trans (carryOf_preSub_eq_nonneg ..), rest⟩

/-! AND, ORA and EOR. -/

/-- What AND, ORA and EOR share, over their operation on bytes. -/
theorem resultA_spec (op : Byte → Byte → Byte) (ht : t = s.reading (mk m) m fun d u => u.resultA (op u.a d))
    (hmk : CrossFormsMarked mk) :
    t.a = op s.a (s.operand m).1 ∧ ZN t t.a ∧ t.x = s.x ∧ t.y = s.y ∧
    KeepsFlags s t [1, 7] ∧ ReadFrame s t m ∧ ReadCost s t (mk m) (s.operand m).2.1 := by
  have hf : ChangesRegs fun d u => u.resultA (op u.a d) := fun _ _ => rfl
  subst ht
  exact ⟨by simp [State.resultA], zn_of_p_eq_setZN rfl, by simp [State.resultA], by simp [State.resultA],
    keepsFlags_of_p_eq_setZN rfl State.operand_p, readFrame_reading hf s _ m, readCost_reading hf hmk s m⟩

theorem crossFormsMarked_and : CrossFormsMarked .and := ⟨fun _ => rfl, fun _ => rfl, fun _ => rfl⟩
theorem crossFormsMarked_ora : CrossFormsMarked .ora := ⟨fun _ => rfl, fun _ => rfl, fun _ => rfl⟩
theorem crossFormsMarked_eor : CrossFormsMarked .eor := ⟨fun _ => rfl, fun _ => rfl, fun _ => rfl⟩

/-- Settles O21: each instruction puts its operation's result in A, and Z and N from it. -/
theorem logicIsBitwise : Obligations.LogicIsBitwise := by
  refine ⟨fun _ _ => rfl, fun _ _ => rfl, fun _ _ => rfl, fun m s => ?_⟩
  rw [List.forall_mem_cons, List.forall_mem_cons, List.forall_mem_singleton]
  exact ⟨⟨_, rfl, resultA_spec (· &&& ·) rfl crossFormsMarked_and⟩, ⟨_, rfl, resultA_spec (· ||| ·) rfl crossFormsMarked_ora⟩,
    ⟨_, rfl, resultA_spec (· ^^^ ·) rfl crossFormsMarked_eor⟩⟩

/-! CMP, CPX, CPY and BIT. -/

/-- What CMP, CPX and CPY share, over the register `reg` they compare. -/
theorem compare_spec (reg : State → Byte) (hreg : reg (s.operand m).2.2 = reg s)
    (ht : t = s.reading (mk m) m fun d u => u.compare (reg u) d) (hmk : CrossFormsMarked mk) :
    t.flagC = decide ((s.operand m).1.toNat ≤ (reg s).toNat) ∧ ZN t (reg s - (s.operand m).1) ∧
    t.a = s.a ∧ t.x = s.x ∧ t.y = s.y ∧
    KeepsFlags s t [0, 1, 7] ∧ ReadFrame s t m ∧ ReadCost s t (mk m) (s.operand m).2.1 := by
  have hf : ChangesRegs fun d u => u.compare (reg u) d := fun _ _ => rfl
  have hp : t.p = (s.shiftFlags (carryOf (preCmp (reg s) (s.operand m).1)) (wrap (preCmp (reg s) (s.operand m).1))).p := by
    simp [ht, State.compare, State.shiftFlags, hreg]
  rw [carryOf_preCmp, wrap_preCmp] at hp
  obtain ⟨hc, hzn, hkeep⟩ := flags_of_p_eq_shiftFlags hp
  subst ht
  exact ⟨hc, hzn, by simp [State.compare], by simp [State.compare], by simp [State.compare], hkeep,
    readFrame_reading hf s _ m, readCost_reading hf hmk s m⟩

theorem crossFormsMarked_cmp : CrossFormsMarked .cmp := ⟨fun _ => rfl, fun _ => rfl, fun _ => rfl⟩
theorem crossFormsMarked_cpx : CrossFormsMarked .cpx := ⟨fun _ => rfl, fun _ => rfl, fun _ => rfl⟩
theorem crossFormsMarked_cpy : CrossFormsMarked .cpy := ⟨fun _ => rfl, fun _ => rfl, fun _ => rfl⟩

/-- Settles O22: each comparison is that of its register, which the operand's read leaves alone. -/
theorem comparesSetFlags : Obligations.ComparesSetFlags := by
  refine ⟨fun _ _ => rfl, fun _ _ => rfl, fun _ _ => rfl, fun m s => ?_⟩
  rw [List.forall_mem_cons, List.forall_mem_cons, List.forall_mem_singleton]
  exact ⟨⟨_, rfl, compare_spec State.a State.operand_a rfl crossFormsMarked_cmp⟩,
    ⟨_, rfl, compare_spec State.x State.operand_x rfl crossFormsMarked_cpx⟩,
    ⟨_, rfl, compare_spec State.y State.operand_y rfl crossFormsMarked_cpy⟩⟩

/-- BIT over the operands of a reading instruction, so that `readCost_reading` speaks of it; it has no immediate form. -/
def bitOf : Src → Instr
  | .imm _ => .nop
  | .mem m => .bit m

theorem crossFormsMarked_bitOf : CrossFormsMarked bitOf := ⟨fun _ => rfl, fun _ => rfl, fun _ => rfl⟩

theorem keepsFlags_testBits (u : State) (d : Byte) : KeepsFlags u (u.testBits d) [1, 6, 7] := by
  have hz : KeepsFlags u (u.setZ (u.a &&& d == 0)) [1, 6, 7] := keepsFlags_mono (keepsFlags_of_p_eq_setBit rfl) (by simp)
  have hn := keepsFlags_trans hz (keepsFlags_of_p_eq_setBit (t := State.setN _ (d.getLsbD 7)) rfl) (by simp)
  exact keepsFlags_trans hn (keepsFlags_of_p_eq_setBit rfl) (by simp)

/-- Settles O23: BIT's flags bit by bit of P; its frame and cost are those of a reading instruction. -/
theorem bitTestsMemory : Obligations.BitTestsMemory := by
  have hf : ChangesRegs fun d u => u.testBits d := fun _ _ => rfl
  refine ⟨fun _ _ => rfl, fun m s => ⟨s.reading (.bit m) (.mem m) fun d u => u.testBits d, rfl, ?z, ?n, ?v, ?a, ?x, ?y,
    keepsFlags_reading (keepsFlags_testBits _ _), readFrame_reading hf s (.bit m) (.mem m),
    readCost_reading hf crossFormsMarked_bitOf s (.mem m)⟩⟩
  case z => simp [State.flagZ, State.testBits, beq_eq_decide]
  all_goals simp [State.flagN, State.flagV, State.testBits]

/-! INC and DEC. -/

theorem changesP_setZN : ChangesP fun _ r u => u.setZN r := fun _ _ _ => rfl

/-- What INC and DEC share, over their operation on bytes: SetZN of the byte written. -/
theorem incDec_spec {mk : Addr → Instr} {m : Addr} {o0 o1 o2 op : Byte} (hmk : RmwEncoding mk [o0, o1, o2, op])
    (hop : pageCrossOpcodes.contains op.toNat = false) (f : Byte → Byte) {r : Byte}
    (hr : r = f (s.cpuRead (s.resolve m).1).1) (ht : t = s.modifying (mk m) m (fun d _ => f d) fun _ r u => u.setZN r) :
    t = { rewritten s (s.resolve m).1 r with p := t.p, pc := t.pc, cost := t.cost } ∧
      ZN t r ∧ KeepsFlags s t [1, 7] ∧ t.a = s.a ∧ t.x = s.x ∧ t.y = s.y ∧ t.sp = s.sp ∧
      StoredAt s t (s.resolve m).1 r ∧ StoreFrame s t (1 + m.size) ∧
      (s.params.cycleOverrides = [] → m.isRmw = true → t.cost = (rewritten s (s.resolve m).1 r).cost) := by
  obtain ⟨hframe, hp⟩ := modifying_frame changesP_setZN hr ht
  exact ⟨hframe, zn_of_p_eq_setZN hp, keepsFlags_of_p_eq_setZN hp (rewritten_p ..),
    modifying_spec hmk hop changesP_setZN hr ht⟩

/-- Settles O24: INC and DEC step the byte up and down. -/
theorem incDecStepMemory : Obligations.IncDecStepMemory := by
  have hinc : RmwEncoding .inc [0xE6, 0xF6, 0xEE, 0xFE] := fun _ _ => rfl
  have hdec : RmwEncoding .dec [0xC6, 0xD6, 0xCE, 0xDE] := fun _ _ => rfl
  refine ⟨hinc, hdec, fun m s => ?_⟩
  rw [List.forall_mem_cons, List.forall_mem_singleton]
  exact ⟨⟨_, rfl, incDec_spec hinc rfl (· + 1) rfl rfl⟩, ⟨_, rfl, incDec_spec hdec rfl (· - 1) rfl rfl⟩⟩

/-! INX, INY, DEX and DEY. -/

theorem toNat_add_one (d : Byte) : (d + 1).toNat = (d.toNat + 1) % 256 := BitVec.toNat_add d 1

theorem toNat_sub_one (d : Byte) : (d - 1).toNat = (d.toNat + 255) % 256 := by
  rw [BitVec.toNat_sub, Nat.add_comm]
  rfl

/-- Settles O25: each is its register update, then SetZN, then PC past the instruction. -/
theorem incDecStepIndex : Obligations.IncDecStepIndex := by
  refine ⟨rfl, fun s => ⟨⟨_, rfl, toNat_add_one s.x, ?_⟩, ⟨_, rfl, toNat_add_one s.y, ?_⟩, ⟨_, rfl, toNat_sub_one s.x, ?_⟩,
    ⟨_, rfl, toNat_sub_one s.y, ?_⟩⟩⟩
  all_goals exact ⟨zn_of_p_eq_setZN rfl, keepsFlags_of_p_eq_setZN rfl rfl, rfl⟩

/-! ASL, LSR, ROL and ROR. -/

theorem wrap_preAsl (d : Byte) : wrap (preAsl d) = d <<< 1 := by
  apply BitVec.eq_of_toNat_eq
  rw [wrap, preAsl, BitVec.toNat_ofNat, BitVec.toNat_shiftLeft, Nat.shiftLeft_eq, Nat.mul_comm]

theorem wrap_preRol (d : Byte) (c : Bool) : wrap (preRol d c) = d <<< 1 ||| if c then 0x01 else 0x00 := by
  revert d c; decide

theorem rorByte_eq (d : Byte) (c : Bool) : rorByte d c = (if c then 0x80 else 0x00) ||| d >>> 1 := by
  revert d c; decide

/-- The flag effect of a shift: C by `out` of the byte read, Z and N of the result. -/
theorem changesP_shiftFlags (out : Byte → Bool) : ChangesP fun d r u => u.shiftFlags (out d) r := fun _ _ _ => rfl

/-- A shift or rotate on the accumulator and on memory, over its result byte `res` and the bit `out` shifted out. -/
theorem shifting_spec {mk : Rmw → Instr} {val : Byte → Bool → Byte} {carry : Byte → Bool} {res : Byte → Byte} {out : Byte → Bool}
    {o0 o1 o2 op : Byte} (hmk : RmwEncoding (fun m => mk (.mem m)) [o0, o1, o2, op])
    (hop : pageCrossOpcodes.contains op.toNat = false) (hres : ∀ d, res d = val d s.flagC) (hout : ∀ d, out d = carry d)
    (hexec : ∀ m, exec (mk m) s = .next (s.shifting (mk m) m val fun d r u => u.shiftFlags (carry d) r)) :
    (∃ t, exec (mk .acc) s = .next t ∧
      t.a = res s.a ∧ t.flagC = out s.a ∧ ZN t t.a ∧ KeepsFlags s t [0, 1, 7] ∧
      t = { s with a := t.a, p := t.p, pc := s.pc + 1 }) ∧
    (∀ m : Addr, ∃ t, exec (mk (.mem m)) s = .next t ∧
      t = { rewritten s (s.resolve m).1 (res (s.cpuRead (s.resolve m).1).1) with p := t.p, pc := t.pc, cost := t.cost } ∧
      t.flagC = out (s.cpuRead (s.resolve m).1).1 ∧ ZN t (res (s.cpuRead (s.resolve m).1).1) ∧
      KeepsFlags s t [0, 1, 7] ∧ t.a = s.a ∧ t.x = s.x ∧ t.y = s.y ∧ t.sp = s.sp ∧
      StoredAt s t (s.resolve m).1 (res (s.cpuRead (s.resolve m).1).1) ∧ StoreFrame s t (1 + m.size) ∧
      (s.params.cycleOverrides = [] → m.isRmw = true →
        t.cost = (rewritten s (s.resolve m).1 (res (s.cpuRead (s.resolve m).1).1)).cost)) := by
  obtain rfl : out = carry := funext hout
  refine ⟨⟨_, hexec .acc, ?acc⟩, fun m => ⟨_, hexec (.mem m), ?mem⟩⟩
  case acc =>
    obtain ⟨hc, hzn, hkeep⟩ := flags_of_p_eq_shiftFlags (s := s)
      (t := s.shiftingA val fun d r u => u.shiftFlags (out d) r) (c := out s.a) (r := val s.a s.flagC) rfl
    exact ⟨(hres _).symm, hc, hzn, hkeep, rfl⟩
  case mem =>
    have hg := changesP_shiftFlags out
    obtain ⟨hframe, hp⟩ := modifying_frame hg (hres _) (ins := mk (.mem m)) rfl
    obtain ⟨hc, hzn, hkeep⟩ := flags_of_p_eq_shiftFlags (hp.trans (shiftFlags_p_congr (rewritten_p ..)))
    exact ⟨hframe, hc, hzn, hkeep, modifying_spec (mk := fun m => mk (.mem m)) hmk hop hg (hres _) rfl⟩

/-- Settles O26: the accumulator and the memory form of each shift, its result byte and the bit shifted out. -/
theorem shiftsMoveBits : Obligations.ShiftsMoveBits := by
  have hasl : RmwEncoding (fun m => .asl (.mem m)) [0x06, 0x16, 0x0E, 0x1E] := fun _ _ => rfl
  have hlsr : RmwEncoding (fun m => .lsr (.mem m)) [0x46, 0x56, 0x4E, 0x5E] := fun _ _ => rfl
  have hrol : RmwEncoding (fun m => .rol (.mem m)) [0x26, 0x36, 0x2E, 0x3E] := fun _ _ => rfl
  have hror : RmwEncoding (fun m => .ror (.mem m)) [0x66, 0x76, 0x6E, 0x7E] := fun _ _ => rfl
  refine ⟨rfl, hasl, hlsr, hrol, hror, fun s => ?_⟩
  rw [List.forall_mem_cons, List.forall_mem_cons, List.forall_mem_cons, List.forall_mem_singleton]
  refine ⟨?asl, ?lsr, ?rol, ?ror⟩
  case asl => exact shifting_spec hasl rfl (fun d => (wrap_preAsl d).symm) (fun d => (carryOf_preAsl d).symm) fun _ => rfl
  case lsr => exact shifting_spec hlsr rfl (fun _ => rfl) (fun _ => rfl) fun _ => rfl
  case rol => exact shifting_spec hrol rfl (fun d => (wrap_preRol d _).symm) (fun d => (carryOf_preRol d _).symm) fun _ => rfl
  case ror => exact shifting_spec hror rfl (fun d => (rorByte_eq d _).symm) (fun _ => rfl) fun _ => rfl

end Sys2Proof
end

section
/-! PROOFS. What the control instructions share: pushes and pulls of several bytes, the target and the page of a branch, and the base
count of an opcode (10_state.md R41; 30_encoding.md R124; 70_reset_and_hazards.md R770). -/

namespace Sys2Proof

open Machine Claims

variable {s t u : State} {ds : List Byte}

/-! Several pushes, several pulls. -/

/-- No two of 256 pushes in a row reach the same slot. -/
theorem pushSlot_ne (s : State) {k n : Nat} (hkn : k < n) (hn : n < 256) : pushSlot s k ≠ pushSlot s n := by
  rw [pushSlot_eq, pushSlot_eq]
  have hsp := s.pushSp.isLt
  simp only [BitVec.toNat_sub, BitVec.toNat_ofNat]
  omega

theorem pushSp_of_sp_eq_sub {x : Byte} (hsp : u.sp = s.sp - x) (hpar : u.params = s.params) : u.pushSp = s.pushSp - x := by
  unfold State.pushSp
  rw [hpar, hsp]
  cases s.params.stackOrder with
  | doc => exact sub_right_comm s.sp x 1
  | mos6502 => rfl

/-- One more push after the pushes of `ds`. -/
theorem pushed_push_append (h : Pushed s u ds) (hpar : u.params = s.params)
    (hwf : Memory.wf s.ram = true → Memory.wf u.ram = true) (hlen : ds.length < 256) (d : Byte) : Pushed s (u.push d) (ds ++ [d]) := by
  obtain ⟨hsp, hram⟩ := h
  have hslot : 256 + u.pushSp.toNat = pushSlot s ds.length := by rw [pushSp_of_sp_eq_sub hsp hpar, pushSlot_eq]
  refine ⟨?_, fun hs => ?_⟩
  · rw [State.push_sp, hsp, List.length_append, BitVec.ofNat_add, sub_add_eq_sub_sub]
    rfl
  obtain ⟨hin, hout⟩ := hram hs
  simp only [State.push_ram, hslot, List.length_append, List.length_singleton, Nat.lt_succ_iff_lt_or_eq]
  refine ⟨fun k hk => ?_, fun j hj => ?_⟩
  · obtain hk | rfl := hk
    · rw [Memory.read_write_other _ (hwf hs) (pushSlot_ne s hk hlen), hin k hk, List.getD_append _ _ _ _ hk]
    · rw [Memory.read_write_same _ _ (hwf hs), List.getD_append_right _ _ _ _ le_rfl, Nat.sub_self]
      rfl
  · rw [Memory.read_write_other _ (hwf hs) (hj _ (.inr rfl)), hout j fun k hk => hj k (.inl hk)]

theorem pushed_push16 (s : State) (w : Word) : Pushed s (s.push16 w) [hiByte w, loByte w] :=
  pushed_push_append (pushed_push s (hiByte w)) (State.push_params s _)
    (fun hwf => by rw [State.push_ram]; exact Memory.wf_write _ _ hwf) (by simp) (loByte w)

/-- A 16-bit push changes SP and RAM, and nothing else. -/
theorem push16_frame (s : State) (w : Word) : s.push16 w = { s with sp := (s.push16 w).sp, ram := (s.push16 w).ram } := by
  simp only [State.push16, State.push_eq]

theorem pullSp_of_sp_eq_add {x : Byte} (hsp : u.sp = s.sp + x) (hpar : u.params = s.params) : u.pullSp = s.pullSp + x := by
  unfold State.pullSp
  rw [hpar, hsp]
  cases s.params.stackOrder with
  | doc => rfl
  | mos6502 => exact add_right_comm s.sp x 1

/-- A pull reads where the next push would write, plus one. -/
theorem pullSp_eq_pushSp_add_one (s : State) : s.pullSp = s.pushSp + BitVec.ofNat 8 1 := by
  unfold State.pullSp State.pushSp
  cases s.params.stackOrder with
  | doc => exact (BitVec.sub_add_cancel s.sp 1).symm
  | mos6502 => rfl

/-- After one pull, the pulls that follow are the later ones. -/
theorem pulled_sp_add_one (s : State) (k : Nat) : pulled { s with sp := s.sp + 1 } k = pulled s (k + 1) := by
  have hsp : ({ s with sp := s.sp + 1 } : State).pullSp = s.pullSp + 1 := pullSp_of_sp_eq_add rfl rfl
  simp only [pulled, pullSlot_eq, hsp]
  rw [BitVec.add_assoc, Nat.add_comm k 1, BitVec.ofNat_add]
  rfl

theorem pull16_eq_pulled (s : State) : s.pull16 = (word (pulled s 1) (pulled s 0), { s with sp := s.sp + 2 }) := by
  simp only [State.pull16, pull_eq_pulled, pulled_sp_add_one, BitVec.add_assoc]
  rfl

/-- Pulls give pushed bytes back, the last one first. -/
theorem pulled_of_pushed (h : Pushed s t ds) (hpar : t.params = s.params) (hwf : Memory.wf s.ram = true) {k : Nat}
    (hk : k < ds.length) : pulled t k = ds.getD (ds.length - 1 - k) 0 := by
  obtain ⟨hsp, hram⟩ := h
  obtain ⟨hin, -⟩ := hram hwf
  have hslot : pullSlot t k = pushSlot s (ds.length - 1 - k) := by
    obtain ⟨m, hm⟩ : ∃ m, ds.length = m + (k + 1) := ⟨ds.length - 1 - k, by omega⟩
    have hback : ds.length - 1 - k = m := by omega
    rw [pullSlot_eq, pushSlot_eq, pullSp_eq_pushSp_add_one, pushSp_of_sp_eq_sub hsp hpar, hback, hm,
      BitVec.ofNat_add, BitVec.ofNat_add k 1]
    congr 2
    ring
  rw [pulled, hslot, hin _ (by omega)]

/-- A 16-bit pull after a 16-bit push gives the value back and restores SP. -/
theorem pull16_of_pushed {w : Word} (h : Pushed s t [hiByte w, loByte w]) (hpar : t.params = s.params)
    (hwf : Memory.wf s.ram = true) : t.pull16 = (w, { t with sp := s.sp }) := by
  have hlo : pulled t 0 = loByte w := pulled_of_pushed h hpar hwf Nat.zero_lt_two
  have hhi : pulled t 1 = hiByte w := pulled_of_pushed h hpar hwf Nat.one_lt_two
  obtain ⟨hsp, -⟩ := h
  have hback : t.sp + 2 = s.sp := by
    rw [hsp]
    exact BitVec.sub_add_cancel s.sp 2
  rw [pull16_eq_pulled, hhi, hlo, word_split, hback]

/-! Branches. -/

theorem branchTarget_eq_ofInt (s : State) (b : Byte) : s.branchTarget b = BitVec.ofInt 16 ((s.pc + 2).toNat + b.toInt) := by
  rw [BitVec.ofInt_add, BitVec.ofInt_natCast, BitVec.ofNat_toNat, BitVec.setWidth_eq]
  rfl

/-- Two addresses are in the same page when their numbers divided by 256 agree. -/
theorem hiByte_eq_iff (v w : Word) : hiByte v = hiByte w ↔ v.toNat / 256 = w.toNat / 256 := by
  have hv := v.isLt
  have hw := w.isLt
  simp only [← BitVec.toNat_inj, hiByte, BitVec.extractLsb'_toNat, Nat.shiftRight_eq_div_pow]
  omega

theorem branching_true (s : State) (b : Byte) :
    s.branching b true = { s with
      pc := s.branchTarget b
      cost := s.cost + if (s.branchTarget b).toNat / 256 = (s.pc + 2).toNat / 256 then 1 else 2 } := by
  simp only [← hiByte_eq_iff]
  rfl

theorem branching_false (s : State) (b : Byte) : s.branching b false = { s with pc := s.pc + 2 } := rfl

/-- With the default CYCLES, an instruction's base count is its opcode's in the table (70_reset_and_hazards.md R770). -/
theorem instrCycles_base {pr : Params} {i : Instr} {n : Nat} (hpr : pr.cycleOverrides = [])
    (hrow : i.opcode.map (fun op => baseCycles.getD op.toNat 0) = some n) : (instrCycles pr i).base = n := by
  obtain ⟨op, hop, rfl⟩ := Option.map_eq_some_iff.mp hrow
  simp [instrCycles, hop, cycleRow, hpr, defaultCycleRow]

end Sys2Proof
end

section
/-! PROOFS. JMP, JSR and RTS, the branches and the flag instructions (42_control.md R260 to R262, R265 to R273, R290 to R300). -/

namespace Sys2Proof

open Machine Claims

variable {s : State} {i : Instr}

theorem exec_jmp_ind (w : Word) (s : State) :
    exec (.jmp (.ind w)) s = .next { ((s.cpuRead w).2.cpuRead (word (hiByte w) (loByte w + 1))).2 with
      pc := word ((s.cpuRead w).2.cpuRead (word (hiByte w) (loByte w + 1))).1 (s.cpuRead w).1 } := rfl

/-- Settles O27: the indirect form is two bus reads and then PC. -/
theorem jmpGoesToTarget : Obligations.JmpGoesToTarget := by
  refine ⟨fun _ => rfl, fun w s => ⟨rfl, _, exec_jmp_ind w s, rfl, ?regs, ?memory, ?cost⟩⟩
  case regs => simp [SameRegs]
  case memory => simp [SameMemory]
  case cost => simp

theorem exec_jsr (w : Word) (s : State) : exec (.jsr w) s = .next { s.push16 (s.pc + 2) with pc := w } := rfl

theorem exec_rts (s : State) : exec .rts s = .next (s.pull16.2.setPc (s.pull16.1 + 1)) := rfl

/-- Settles O28: JSR is a 16-bit push and RTS a 16-bit pull, which gives the pushed address back. -/
theorem jsrRtsReturn : Obligations.JsrRtsReturn := by
  refine ⟨fun _ => rfl, rfl, fun w s => ?jsr, fun s => ?rts, fun w s t hwf ht => ?jsrRts⟩
  case jsr =>
    refine ⟨_, exec_jsr w s, rfl, pushed_push16 s (s.pc + 2), ?_⟩
    rw [push16_frame]
  case rts =>
    rw [exec_rts, pull16_eq_pulled]
    rfl
  case jsrRts =>
    rw [exec_jsr] at ht
    obtain rfl := Host.Outcome.next.inj ht
    have hpar : (s.push16 (s.pc + 2)).params = s.params := by rw [push16_frame]
    have hpull := pull16_of_pushed (t := { s.push16 (s.pc + 2) with pc := w }) (pushed_push16 s (s.pc + 2)) hpar hwf
    rw [exec_rts, hpull, State.setPc, BitVec.add_assoc]
    rfl

/-- What the branches share: the outcome by `taken`, and the base count of an opcode whose row is 2. -/
theorem branch_spec {b : Byte} {taken : Bool} {cond : Prop} {target : Word} (hexec : exec i s = .next (s.branching b taken))
    (hcond : cond = (taken = true)) (hrow : i.opcode.map (fun op => baseCycles.getD op.toNat 0) = some 2)
    (htarget : target = BitVec.ofInt 16 ((s.pc + 2).toNat + b.toInt)) :
    (s.params.cycleOverrides = [] → (instrCycles s.params i).base = 2) ∧
    (cond → exec i s = .next { s with
      pc := target
      cost := s.cost + if target.toNat / 256 = (s.pc + 2).toNat / 256 then 1 else 2 }) ∧
    (¬ cond → exec i s = .next { s with pc := s.pc + 2 }) := by
  rw [hcond, hexec, htarget, ← branchTarget_eq_ofInt]
  refine ⟨fun hpr => instrCycles_base hpr hrow, fun h => ?_, fun h => ?_⟩
  · rw [h, branching_true]
  · rw [Bool.not_eq_true] at h
    rw [h, branching_false]

/-- Settles O29: each branch is `State.branching` on its flag. -/
theorem branchesTestOneFlag : Obligations.BranchesTestOneFlag := by
  refine fun b s => ⟨rfl, ?_⟩
  rw [← List.forall_iff_forall_mem]
  refine ⟨?bcc, ?bcs, ?beq, ?bmi, ?bne, ?bpl, ?bvc, ?bvs⟩
  case bcs | beq | bmi | bvs => exact fun target => branch_spec rfl rfl rfl
  case bcc | bne | bpl | bvc => exact fun target => branch_spec rfl (Bool.not_eq_true' _).symm rfl

/-- What the flag instructions share: bit `k` of P is written, and PC is past the one byte. -/
theorem setFlag_spec {k : Nat} {b : Bool} (hk : k < 8) (hexec : exec i s = .next { s with p := setBit s.p k b, pc := s.pc + 1 }) :
    ∃ t, exec i s = .next t ∧ t.p.getLsbD k = b ∧ KeepsFlags s t [k] ∧ t = { s with p := t.p, pc := s.pc + 1 } :=
  ⟨_, hexec, by rw [getLsbD_setBit _ hk, if_pos rfl], keepsFlags_of_p_eq_setBit rfl, rfl⟩

/-- Settles O30: each flag instruction is one `setBit` of P, and NOP is the advance of PC alone. -/
theorem flagInstrsWriteOneFlag : Obligations.FlagInstrsWriteOneFlag := by
  refine ⟨rfl, fun s => ?flags, fun _ => rfl, fun pr hpr => instrCycles_base hpr rfl⟩
  rw [← List.forall_iff_forall_mem]
  and_intros
  all_goals exact setFlag_spec (by decide) rfl

end Sys2Proof
end

section
/-! PROOFS. The mirrors of RAM and of the PPU registers, and RAM as memory (20_memory.md R72, R84; 61_bus_cartridge.md R460 to
R462). -/

namespace Sys2Proof

open Machine

variable {s : State} {a b : Word} {d : Byte}

/-! Which byte or register an address reaches. -/

theorem ramIndex_eq_mod (a : Word) : ramIndex a = a.toNat % 0x800 := BitVec.toNat_setWidth ..

theorem ppuReg_eq_of_mod_eq (h : a.toNat % 8 = b.toNat % 8) : a.setWidth 3 = b.setWidth 3 := by
  apply BitVec.eq_of_toNat_eq
  simpa only [BitVec.toNat_setWidth] using h

theorem cpuRead_of_ppuReg (hlo : 0x2000 ≤ a.toNat) (hhi : a.toNat < 0x4000) : s.cpuRead a = s.ppuRegRead (a.setWidth 3) := by
  rw [State.cpuRead, if_neg (by omega), if_pos hhi]

theorem cpuWrite_of_ppuReg (hlo : 0x2000 ≤ a.toNat) (hhi : a.toNat < 0x4000) :
    s.cpuWrite a d = s.ppuRegWrite (a.setWidth 3) d := by
  rw [State.cpuWrite, if_neg (by omega), if_pos hhi]

/-! Mirrors agree. -/

theorem ramMirrors_agree (ha : a.toNat < 0x2000) (hb : b.toNat < 0x2000) (h : a.toNat % 0x800 = b.toNat % 0x800) :
    s.cpuRead a = s.cpuRead b ∧ s.cpuWrite a d = s.cpuWrite b d := by
  have hindex : ramIndex a = ramIndex b := by rw [ramIndex_eq_mod, ramIndex_eq_mod, h]
  constructor
  · rw [State.cpuRead_of_ram ha, State.cpuRead_of_ram hb, hindex]
  · rw [State.cpuWrite_of_ram ha, State.cpuWrite_of_ram hb, hindex]

theorem ppuRegMirrors_agree (ha : 0x2000 ≤ a.toNat) (ha' : a.toNat < 0x4000) (hb : 0x2000 ≤ b.toNat) (hb' : b.toNat < 0x4000)
    (h : a.toNat % 8 = b.toNat % 8) : s.cpuRead a = s.cpuRead b ∧ s.cpuWrite a d = s.cpuWrite b d := by
  have hreg := ppuReg_eq_of_mod_eq h
  constructor
  · rw [cpuRead_of_ppuReg ha ha', cpuRead_of_ppuReg hb hb', hreg]
  · rw [cpuWrite_of_ppuReg ha ha', cpuWrite_of_ppuReg hb hb', hreg]

/-- A RAM read after a RAM write: the byte written at a mirror of its address, the old byte elsewhere. -/
theorem cpuRead_cpuWrite_ram (hwf : Memory.wf s.ram = true) (ha : a.toNat < 0x2000) (hb : b.toNat < 0x2000) :
    ((s.cpuWrite a d).cpuRead b).1 = if a.toNat % 0x800 = b.toNat % 0x800 then d else (s.cpuRead b).1 := by
  rw [State.cpuWrite_of_ram ha, State.cpuRead_of_ram hb, State.cpuRead_of_ram hb, ← ramIndex_eq_mod, ← ramIndex_eq_mod]
  split
  case isTrue same => rw [same, Memory.read_write_same _ _ hwf]
  case isFalse other => exact Memory.read_write_other _ hwf (Ne.symm other)

/-- Settles O34: the RAM index and the register number of an address are its low bits, and RAM is read after written. -/
theorem mirrorsAgree : Obligations.MirrorsAgree :=
  fun _ _ _ _ => ⟨ramMirrors_agree, ppuRegMirrors_agree, cpuRead_cpuWrite_ram⟩

end Sys2Proof
end

section
/-! PROOFS. Reading PPUSTATUS: the bits of the value, and the whole state after the read (62_ppu.md R533, R537, R541, R567). -/

namespace Sys2Proof

open Machine

/-- The bits of the PPUSTATUS value (62_ppu.md R537). -/
theorem getLsbD_ppuStatus (p : Ppu) {j : Nat} (hj : j < 8) :
    p.status.getLsbD j =
      if j = 7 then p.vblank
      else if j = 6 then p.sprite0Hit
      else if j = 5 then p.spriteOverflow
      else p.ioLatch.getLsbD j := by
  simp only [Ppu.status, BitVec.getLsbD_append]
  interval_cases j <;> simp

/-- With `vblank` clear the NMI output falls or stays low, so re-evaluating it leaves the CPU's latch alone (62_ppu.md R567). -/
theorem nmiEval_of_vblank_clear {s : State} (h : s.ppu.vblank = false) :
    s.nmiEval = { s with ppu := { s.ppu with nmiOut := false } } := by
  have hlow : s.ppu.nmiLevel = false := by rw [Ppu.nmiLevel, h, Bool.false_and]
  rw [State.nmiEval, hlow, Bool.false_and, Bool.or_false]

/-- The read of PPUSTATUS as one update of the state (62_ppu.md R541). -/
theorem cpuRead_ppuStatus (s : State) :
    s.cpuRead 0x2002 =
      (s.ppu.status,
        { s with ppu := { s.ppu with vblank := false, w := false, nmiOut := false, ioLatch := s.ppu.status } }) := by
  have hdispatch : s.cpuRead 0x2002 = s.readStatus := cpuRead_of_ppuReg (by decide) (by decide)
  rw [hdispatch, State.readStatus, nmiEval_of_vblank_clear rfl]

/-- Settles O42: the value's bits are those of R537, for the second read with the `vblank` that the first one cleared. -/
theorem statusReadClearsVblank : Obligations.StatusReadClearsVblank := by
  intro s d t hread
  rw [cpuRead_ppuStatus] at hread
  obtain ⟨rfl, rfl⟩ := Prod.mk.inj hread
  have hbit7 (p : Ppu) : p.status.getLsbD 7 = p.vblank := getLsbD_ppuStatus p (by decide)
  refine ⟨hbit7 s.ppu, getLsbD_ppuStatus s.ppu (by decide), getLsbD_ppuStatus s.ppu (by decide), ?latch, rfl, ?second⟩
  case latch =>
    intro j hj
    rw [getLsbD_ppuStatus _ (by omega), if_neg (by omega), if_neg (by omega), if_neg (by omega)]
  case second => rw [cpuRead_ppuStatus, hbit7]

end Sys2Proof
end

section
/-! PROOFS. Decoding undoes encoding and encoding undoes decoding (30_encoding.md R110, R111, R133). -/

namespace Sys2Proof

/-! One lemma for each format: the opcode's row of the decoder's table is the instruction, given its encoding. -/

theorem decode_encode_f1 {i : Instr} {op : Byte} (henc : encode i = [op]) (hrow : opcodeFormat op = .f1 i)
    (rest : List Byte) : decode (encode i ++ rest) = .ok (i, rest) := by
  simp only [henc, List.cons_append, List.nil_append, decode, hrow]

theorem decode_encode_f2 {i : Instr} {op b : Byte} {mk : Byte → Instr} (henc : encode i = [op, b])
    (hrow : opcodeFormat op = .f2 mk) (hi : mk b = i) (rest : List Byte) : decode (encode i ++ rest) = .ok (i, rest) := by
  simp only [henc, List.cons_append, List.nil_append, decode, hrow, hi]

theorem decode_encode_f3 {i : Instr} {op : Byte} {w : Word} {mk : Word → Instr} (henc : encode i = op :: wordBytes w)
    (hrow : opcodeFormat op = .f3 mk) (hi : mk w = i) (rest : List Byte) : decode (encode i ++ rest) = .ok (i, rest) := by
  simp only [henc, wordBytes, List.cons_append, List.nil_append, decode, hrow, Machine.word_split, hi]

/-- Settles O1: mnemonics with the same modes together, and in each mode the opcode's row of the decoder's table. -/
theorem decodeEncode : Obligations.DecodeEncode := by
  intro i rest hwf
  cases i
  case lda m | adc m | sbc m | and m | ora m | eor m | cmp m =>
    match m, hwf with
      | .imm _, _ | .mem (.zp _), _ | .mem (.zpx _), _ | .mem (.indx _), _ | .mem (.indy _), _ => apply decode_encode_f2 <;> rfl
      | .mem (.abs _), _ | .mem (.absx _), _ | .mem (.absy _), _ => apply decode_encode_f3 <;> rfl
  case ldx m =>
    match m, hwf with
      | .imm _, _ | .mem (.zp _), _ | .mem (.zpy _), _ => apply decode_encode_f2 <;> rfl
      | .mem (.abs _), _ | .mem (.absy _), _ => apply decode_encode_f3 <;> rfl
  case ldy m =>
    match m, hwf with
      | .imm _, _ | .mem (.zp _), _ | .mem (.zpx _), _ => apply decode_encode_f2 <;> rfl
      | .mem (.abs _), _ | .mem (.absx _), _ => apply decode_encode_f3 <;> rfl
  case cpx m | cpy m =>
    match m, hwf with
      | .imm _, _ | .mem (.zp _), _ => apply decode_encode_f2 <;> rfl
      | .mem (.abs _), _ => apply decode_encode_f3 <;> rfl
  case sta m =>
    match m, hwf with
      | .zp _, _ | .zpx _, _ | .indx _, _ | .indy _, _ => apply decode_encode_f2 <;> rfl
      | .abs _, _ | .absx _, _ | .absy _, _ => apply decode_encode_f3 <;> rfl
  case stx m =>
    match m, hwf with
      | .zp _, _ | .zpy _, _ => apply decode_encode_f2 <;> rfl
      | .abs _, _ => apply decode_encode_f3 <;> rfl
  case sty m =>
    match m, hwf with
      | .zp _, _ | .zpx _, _ => apply decode_encode_f2 <;> rfl
      | .abs _, _ => apply decode_encode_f3 <;> rfl
  case bit m =>
    match m, hwf with
      | .zp _, _ => apply decode_encode_f2 <;> rfl
      | .abs _, _ => apply decode_encode_f3 <;> rfl
  case inc m | dec m =>
    match m, hwf with
      | .zp _, _ | .zpx _, _ => apply decode_encode_f2 <;> rfl
      | .abs _, _ | .absx _, _ => apply decode_encode_f3 <;> rfl
  case asl m | lsr m | rol m | ror m =>
    match m, hwf with
      | .acc, _ => apply decode_encode_f1 <;> rfl
      | .mem (.zp _), _ | .mem (.zpx _), _ => apply decode_encode_f2 <;> rfl
      | .mem (.abs _), _ | .mem (.absx _), _ => apply decode_encode_f3 <;> rfl
  case jmp t =>
    match t with
      | .abs _ | .ind _ => apply decode_encode_f3 <;> rfl
  case jsr w => apply decode_encode_f3 <;> rfl
  case bcc b | bcs b | beq b | bmi b | bne b | bpl b | bvc b | bvs b => apply decode_encode_f2 <;> rfl
  case unassigned op =>
    have listed : op.toNat ∈ unassignedBytes := by simpa [Instr.wellFormed] using hwf
    have hop : (Instr.unassigned op).opcode = some op := opcode_unassigned_eq_some_iff.mpr ⟨listed, rfl⟩
    exact decode_encode_f1 (by rw [encode, hop]; rfl) (opcodeFormat_of_mem_unassignedBytes listed) rest
  all_goals apply decode_encode_f1 <;> rfl

/-! The other direction: the operand bytes of a row's instruction. -/

/-- The instruction of a format whose operand is `w`, or the low byte of `w`, or nothing. -/
def Format.atWord : Format → Word → Instr
  | .f1 i, _ => i
  | .f2 mk, w => mk (loByte w)
  | .f3 mk, w => mk w

theorem Format.complete_eq_atWord (f : Format) (lo hi : Byte) : f.complete lo hi = f.atWord (word hi lo) := by
  cases f with
  | f1 i => rfl
  | f2 mk => rw [Format.complete, Format.atWord, Machine.loByte_word]
  | f3 mk => rfl

/-- The encoder writes the operand bytes that the decoder's table reads, in each of the 256 rows. -/
theorem operandBytes_atWord (op : Byte) (w : Word) :
    ((opcodeFormat op).atWord w).operandBytes = (wordBytes w).take ((opcodeFormat op).length - 1) := by
  obtain ⟨⟨n, hn⟩⟩ := op
  interval_cases n <;> rfl

theorem encode_complete_opcodeFormat (op lo hi : Byte) :
    encode ((opcodeFormat op).complete lo hi) = op :: [lo, hi].take ((opcodeFormat op).length - 1) := by
  have hbytes := operandBytes_atWord op (word hi lo)
  rw [← Format.complete_eq_atWord, wordBytes, Machine.loByte_word, Machine.hiByte_word] at hbytes
  rw [encode, opcode_complete_opcodeFormat, hbytes]

/-- Every row of the decoder's table is an instruction in one of its modes. -/
theorem wellFormed_complete_opcodeFormat (op lo hi : Byte) : ((opcodeFormat op).complete lo hi).wellFormed = true := by
  obtain ⟨⟨n, hn⟩⟩ := op
  interval_cases n <;> rfl

/-- What a decoded byte string is: an opcode byte, the operand bytes of its format, and the rest. -/
theorem decode_eq_ok {bytes rest : List Byte} {i : Instr} (h : decode bytes = .ok (i, rest)) :
    ∃ op lo hi, i = (opcodeFormat op).complete lo hi ∧
      bytes = op :: [lo, hi].take ((opcodeFormat op).length - 1) ++ rest := by
  match bytes with
  | [] => cases h
  | op :: tail =>
    simp only [decode] at h
    split at h
    case h_1 hf => cases h; exact ⟨op, 0, 0, by rw [hf]; rfl, by rw [hf]; rfl⟩
    case h_2 b _ hf => cases h; exact ⟨op, b, 0, by rw [hf]; rfl, by rw [hf]; rfl⟩
    case h_3 lo hi _ hf => cases h; exact ⟨op, lo, hi, by rw [hf]; rfl, by rw [hf]; rfl⟩
    case h_4 => cases h

/-- Settles O2: the decoded instruction is its opcode's row, completed with the bytes that follow. -/
theorem encodeDecode : Obligations.EncodeDecode := by
  intro bytes rest i h
  obtain ⟨op, lo, hi, rfl, rfl⟩ := decode_eq_ok h
  exact ⟨wellFormed_complete_opcodeFormat op lo hi, by rw [encode_complete_opcodeFormat]⟩

/-- Settles O4: each word, by evaluation of the decoder. -/
theorem sampleWordsDecode : Obligations.SampleWordsDecode := by
  and_intros <;> rfl
end Sys2Proof
end

section
/-! PROOFS. What every step keeps: the cartridge's ROM, and the invariant of the machine (61_bus_cartridge.md R484, R498;
10_state.md R49). -/

namespace Sys2Proof

open Machine Safety

variable {s t u : State}

/-! ROM. -/

/-- A PPU-bus write changes CHR only where it is RAM (61_bus_cartridge.md R484). -/
theorem ppuBusWrite_chr_of_rom (h : s.cart.chrIsRam = false) (a : PpuAddr) (d : Byte) :
    (s.ppuBusWrite a d).cart.chr = s.cart.chr := by
  unfold State.ppuBusWrite
  split
  · rw [Cart.ppuWrite, h, Bool.and_false]
    rfl
  split
  · unfold State.ntWrite
    cases nametableSelect s.cart.mirrorMode a <;> rfl
  · rfl

theorem ppuRegWrite_chr_of_rom (h : s.cart.chrIsRam = false) (r : BitVec 3) (d : Byte) :
    (s.ppuRegWrite r d).cart.chr = s.cart.chr := by
  unfold State.ppuRegWrite
  split
  case h_7 => exact ppuBusWrite_chr_of_rom (s := s.latchPpu d) h _ d
  all_goals rfl

theorem cpuWrite_chr_of_rom (h : s.cart.chrIsRam = false) (w : Word) (d : Byte) :
    (s.cpuWrite w d).cart.chr = s.cart.chr := by
  by_cases hppu : 0x2000 ≤ w.toNat ∧ w.toNat < 0x4000
  · obtain ⟨hlo, hhi⟩ := hppu
    rw [cpuWrite_of_ppuReg hlo hhi, ppuRegWrite_chr_of_rom h]
  · obtain ⟨hchr, -⟩ := State.cpuWrite_ppuMemories (s := s) (d := d) hppu
    exact hchr

/-- From `s` to `u` nothing of the cartridge changes but its RAMs and the MMC1 registers; nor do the parameters, the scheduler and
the refusal mark. -/
structure KeepsRom (s u : State) : Prop where
  cart : u.cart =
    { s.cart with chr := u.cart.chr, vramExtra := u.cart.vramExtra, prgRam := u.cart.prgRam, mmc1 := u.cart.mmc1 }
  chr : s.cart.chrIsRam = false → u.cart.chr = s.cart.chr
  params : u.params = s.params
  sched : u.sched = s.sched
  refusal : u.refusal = s.refusal

theorem keepsRom_cpuWrite (h : KeepsRom s u) (w : Word) (d : Byte) : KeepsRom s (u.cpuWrite w d) where
  cart := (State.cpuWrite_cart_frame u w d).trans (by rw [h.cart])
  chr hrom := (cpuWrite_chr_of_rom (by rw [h.cart]; exact hrom) w d).trans (h.chr hrom)
  params := (State.cpuWrite_params u w d).trans h.params
  sched := (State.cpuWrite_sched u w d).trans h.sched
  refusal := (State.cpuWrite_refusal u w d).trans h.refusal

theorem keepsRom_cpuRead (h : KeepsRom s u) (w : Word) : KeepsRom s (u.cpuRead w).2 := by
  constructor <;> simp only [State.cpuRead_cart, State.cpuRead_params, State.cpuRead_sched, State.cpuRead_refusal]
  exacts [h.cart, h.chr, h.params, h.sched, h.refusal]

theorem keptByStep_keepsRom (s : State) : KeptByStep (KeepsRom s) where
  cpu _ _ _ _ _ _ _ _ _ _ h := { h with }
  read _ w h := keepsRom_cpuRead h w
  write _ w d h := keepsRom_cpuWrite h w d
  cost _ _ h := { h with }
  nmi _ h := { h with }
  cycles _ _ h := { h with }
  ppu _ h := { h with }
  apu u h := by rw [State.apuTick_frame]; exact { h with }

/-- Settles O36: `KeepsRom` from the state before the step is kept by all that a step does. -/
theorem stepKeepsRom : Obligations.StepKeepsRom := by
  intro s t hstep
  have hkeep : KeepsRom s t := step_keeps (keptByStep_keepsRom s) ⟨rfl, fun _ => rfl, rfl, rfl, rfl⟩ hstep
  refine ⟨?_, ?_, ?_, ?_, ?_, ?_, ?_, ?_, ?_, hkeep.chr, hkeep.params, hkeep.sched, hkeep.refusal⟩
  all_goals rw [hkeep.cart]

/-! The invariant. -/

theorem keptByStep_inv : KeptByStep Inv where
  cpu s a x y sp p pc cost hp _ h := Inv.cpu s a x y sp p pc cost hp h
  read := Inv.cpuRead
  write := Inv.cpuWrite
  cost s n h := Inv.cpu s s.a s.x s.y s.sp s.p s.pc n (.inl rfl) h
  nmi s h := h.latches false s.cycles
  cycles s n h := h.latches s.nmiPending n
  ppu := Inv.ppuTick
  apu := Inv.apuTick

/-- Settles O60: everything a step does keeps the invariant. -/
theorem stepKeepsInv : Obligations.StepKeepsInv :=
  fun _ _ hinv hstep => step_keeps keptByStep_inv hinv hstep

/-- Settles O59: every memory is empty and every counter a literal, and the power-on computes the state. -/
theorem resetMeetsInv : Obligations.ResetMeetsInv := by
  refine ⟨⟨?memories, ?counters, rfl, rfl⟩, rfl⟩
  case memories => constructor <;> decide
  case counters => constructor <;> decide

end Sys2Proof
end

section
/-! PROOFS. The fetch, the interrupt poll and the refusal of an unassigned byte (20_memory.md R82; 60_exceptions.md R400, R401,
R425, R456; 64_scheduler.md R701). -/

namespace Sys2Proof

open Machine Claims

variable {s : State} {op lo hi : Byte} {i : Instr}

/-! When exactly the bytes of one instruction decode. -/

theorem decode_one_iff : decode [op] = .ok (i, []) ↔ opcodeFormat op = .f1 i := by
  cases hf : opcodeFormat op <;> simp [decode, hf]

theorem decode_two_iff : decode [op, lo] = .ok (i, []) ↔ ∃ mk, opcodeFormat op = .f2 mk ∧ mk lo = i := by
  cases hf : opcodeFormat op <;> simp [decode, hf]

theorem decode_three_iff : decode [op, lo, hi] = .ok (i, []) ↔ ∃ mk, opcodeFormat op = .f3 mk ∧ mk (word hi lo) = i := by
  cases hf : opcodeFormat op <;> simp [decode, hf]

/-! The fetch, by the format of the opcode byte: as many bus reads as the format has bytes. -/

theorem fetch_f1 (h : opcodeFormat (s.cpuRead s.pc).1 = .f1 i) : s.fetch = (i, (s.cpuRead s.pc).2) := by
  simp only [State.fetch, h]
  rfl

theorem fetch_f2 {mk : Byte → Instr} (h : opcodeFormat (s.cpuRead s.pc).1 = .f2 mk) :
    s.fetch = (mk ((s.cpuRead s.pc).2.cpuRead (s.pc + 1)).1, ((s.cpuRead s.pc).2.cpuRead (s.pc + 1)).2) := by
  simp only [State.fetch, h]
  rfl

theorem fetch_f3 {mk : Word → Instr} (h : opcodeFormat (s.cpuRead s.pc).1 = .f3 mk) :
    s.fetch =
      (mk (word (((s.cpuRead s.pc).2.cpuRead (s.pc + 1)).2.cpuRead (s.pc + 2)).1 ((s.cpuRead s.pc).2.cpuRead (s.pc + 1)).1),
        (((s.cpuRead s.pc).2.cpuRead (s.pc + 1)).2.cpuRead (s.pc + 2)).2) := by
  simp only [State.fetch, h]
  rfl

/-- From plain memory the fetch changes nothing, and its instruction is the row's, completed with the next two bytes. -/
theorem fetch_plain (h0 : s.isPlainMemory s.pc = true) (h1 : s.isPlainMemory (s.pc + 1) = true)
    (h2 : s.isPlainMemory (s.pc + 2) = true) :
    s.fetch = ((opcodeFormat (s.cpuRead s.pc).1).complete (s.cpuRead (s.pc + 1)).1 (s.cpuRead (s.pc + 2)).1, s) := by
  cases hf : opcodeFormat (s.cpuRead s.pc).1 with
  | f1 i => rw [fetch_f1 hf, State.cpuRead_plain h0]; rfl
  | f2 mk => rw [fetch_f2 hf, State.cpuRead_plain h0, State.cpuRead_plain h1]; rfl
  | f3 mk => rw [fetch_f3 hf, State.cpuRead_plain h0, State.cpuRead_plain h1, State.cpuRead_plain h2]; rfl

/-! The step. -/

theorem step_of_running (hr : s.refusal = none) (hm : s.sched.mode = .running) : step s = thenCatchUp s.cpuPart := by
  simp only [step, hr]
  exact if_pos hm

theorem step_of_poll_run (hr : s.refusal = none) (hm : s.sched.mode = .running) (hp : s.poll = .run) :
    step s = thenCatchUp (exec s.fetch.1 (s.fetch.2.chargeBase s.fetch.1)) := by
  rw [step_of_running hr hm, State.cpuPart, hp]
  rfl

theorem step_of_refusal {pc : Word} (h : s.refusal = some (op, pc)) : step s = .refused (.unassignedOpcode op pc) := by
  simp only [step, h]

/-- Settles O5: the fetch from plain memory is `fetch_plain`, and its instruction is the decoded one. -/
theorem stepRunsDecodedInstr : Obligations.StepRunsDecodedInstr := by
  intro s i rest hr hm hp h0 h1 h2 hdec
  rw [decode_cons_cons_cons] at hdec
  obtain ⟨rfl, -⟩ := Prod.mk.inj (Except.ok.inj hdec)
  rw [step_of_poll_run hr hm hp, fetch_plain h0 h1 h2]
  rfl

/-- Settles O6: exactly one instruction's bytes fix the format, and so which reads the fetch does. -/
theorem stepFetchesThroughBus : Obligations.StepFetchesThroughBus := by
  intro s i hr hm hp
  rw [step_of_poll_run hr hm hp]
  refine ⟨fun h => ?one, fun h => ?two, fun h => ?three⟩
  case one => rw [fetch_f1 (decode_one_iff.mp h)]
  case two =>
    obtain ⟨mk, hf, rfl⟩ := decode_two_iff.mp h
    rw [fetch_f2 hf]
  case three =>
    obtain ⟨mk, hf, rfl⟩ := decode_three_iff.mp h
    rw [fetch_f3 hf]

/-- The poll in the fields the spec names (60_exceptions.md R401, R430). -/
theorem poll_eq (s : State) :
    s.poll = if s.nmiPending = true then .nmi
      else if (s.apu.frameIrq = true ∨ s.apu.dmc.irq = true) ∧ s.p.getLsbD 2 = false then .irq else .run := by
  simp [State.poll, State.irqLine, Apu.irqLine, State.flagI]

/-- Settles O7: the mode first, then the branches of the poll. -/
theorem pollDecides : Obligations.PollDecides := by
  intro s hr
  by_cases hm : s.sched.mode = .running
  · rw [if_neg (not_not_intro hm), step_of_running hr hm, State.cpuPart, poll_eq]
    by_cases hnmi : s.nmiPending = true
    · rw [if_pos hnmi, if_pos hnmi]
      rfl
    by_cases hirq : (s.apu.frameIrq = true ∨ s.apu.dmc.irq = true) ∧ s.p.getLsbD 2 = false
    · rw [if_neg hnmi, if_pos hirq, if_neg hnmi, if_pos hirq]
      rfl
    · rw [if_neg hnmi, if_neg hirq, if_neg hnmi, if_neg hirq]
      rfl
  · rw [if_pos hm]
    simp only [step, hr, if_neg hm]

/-! Refusals. -/

theorem step_of_unassigned (hr : s.refusal = none) (hm : s.sched.mode = .running) (hp : s.poll = .run)
    (hop : (s.cpuRead s.pc).1.toNat ∈ unassignedBytes) :
    step s = .refused (.unassignedOpcode (s.cpuRead s.pc).1 s.pc) := by
  rw [step_of_poll_run hr hm hp, fetch_f1 (opcodeFormat_of_mem_unassignedBytes hop)]
  simp only [exec, execUnassigned, State.chargeBase_pc, State.cpuRead_pc, thenCatchUp]

/-- The byte a bus read gives does not depend on the budget's carry. -/
theorem cpuRead_setCarry_value (s : State) (c : Rat) (w : Word) : ((s.setCarry c).cpuRead w).1 = (s.cpuRead w).1 := by
  unfold State.cpuRead
  split
  · rfl
  split
  · unfold State.ppuRegRead
    split <;> rfl
  split
  · rfl
  split
  · rfl
  split
  · cases h : s.pads.strobe <;> simp [State.readPad, State.setCarry, State.reloadPad, h]
  split
  · cases h : s.pads.strobe <;> simp [State.readPad, State.setCarry, State.reloadPad, h]
  split <;> rfl

theorem runLoop_of_refused {r : Refusal} (hc : s.sched.carry > 0) (h : step s = .refused r) :
    runLoop s = some { state := s.keepRefusal r, stop := some (.refused r) } := by
  rw [runLoop.eq_1, if_pos hc, h]

theorem run_of_runLoop {budget : Rat} {r : RunResult} (hr : s.refusal = none)
    (h : runLoop (s.setCarry (s.sched.carry + budget)) = some r) : run budget s = r := by
  simp only [run, hr, h]

theorem run_of_refusal {pc : Word} (h : s.refusal = some (op, pc)) (budget : Rat) :
    run budget s = { state := s, stop := some (.refused (.unassignedOpcode op pc)) } := by
  simp only [run, h]

theorem keepRefusal_unassignedOpcode (hr : s.refusal = none) (pc : Word) :
    s.keepRefusal (.unassignedOpcode op pc) = { (s.cpuRead s.pc).2 with refusal := some (op, pc) } := by
  simp only [State.keepRefusal, hr]

/-- Settles O13: the step by `step_of_unassigned`, and `run` by one turn of its loop, whose state differs in the carry only. -/
theorem refusalIsKept : Obligations.RefusalIsKept := by
  refine ⟨fun _ _ => rfl, fun s hr hm hp hop => ⟨step_of_unassigned hr hm hp hop, fun budget hb => ?run⟩,
    fun s op pc budget h => ⟨step_of_refusal h, run_of_refusal h budget⟩⟩
  case run =>
    have hread := cpuRead_setCarry_value s (s.sched.carry + budget) s.pc
    have hstep : step (s.setCarry (s.sched.carry + budget)) = .refused (.unassignedOpcode (s.cpuRead s.pc).1 s.pc) := by
      rw [← hread] at hop ⊢
      exact step_of_unassigned hr hm hp hop
    rw [run_of_runLoop hr (runLoop_of_refused hb hstep),
      keepRefusal_unassignedOpcode (s := s.setCarry (s.sched.carry + budget)) hr]
    rfl

end Sys2Proof
end

section
/-! PROOFS. Taking an interrupt and returning from it (60_exceptions.md R410 to R413, R435; 42_control.md R280, R281). -/

namespace Sys2Proof

open Machine Claims

variable {s t : State}

/-- What BRK, NMI and IRQ share, in the vocabulary of the statements. -/
theorem takeInterrupt_spec {ret : Word} {status : Byte} {vec : Word} (hlo : 0x4020 ≤ vec.toNat) (hhi : vec.toNat < 0xFFFF)
    (ht : t = s.takeInterrupt ret status vec) :
    t.pc = vectorAt s vec ∧ t.flagI = true ∧ KeepsFlags s t [2] ∧ Pushed s t [hiByte ret, loByte ret, status] ∧
    t = { s with pc := t.pc, p := t.p, sp := t.sp, ram := t.ram } := by
  have hpushed : Pushed s ((s.push16 ret).push status) [hiByte ret, loByte ret, status] := by
    refine pushed_push_append (pushed_push16 s ret) (by rw [push16_frame]) (fun hwf => ?_) (by simp) status
    rw [State.push16, State.push_ram, State.push_ram]
    exact Memory.wf_write _ _ (Memory.wf_write _ _ hwf)
  rw [State.takeInterrupt_eq s ret status hlo hhi] at ht
  have hflag : t.flagI = true := by
    rw [ht, State.flagI, getLsbD_setBit _ (by decide)]
    rfl
  refine ⟨by rw [ht]; rfl, hflag, keepsFlags_of_p_eq_setBit (by rw [ht]), by rw [ht]; exact hpushed, ?_⟩
  rw [ht, State.push_eq, push16_frame]

/-- Settles O8: the entry is `takeInterrupt_spec` on the machine with the latch cleared. -/
theorem nmiEntersHandler : Obligations.NmiEntersHandler := by
  intro s hnmi
  have hcpu : s.cpuPart = .next s.enterNmi := by rw [State.cpuPart, poll_eq, if_pos hnmi]
  obtain ⟨hpc, hi, hflags, hpushed, hframe⟩ :=
    takeInterrupt_spec (s := { s with nmiPending := false }) (ret := s.pc) (status := statusInt s.p) (vec := 0xFFFA)
      (by decide) (by decide) rfl
  refine ⟨s.enterNmi, hcpu, hpc, hi, hflags, hpushed, ?_⟩
  rw [State.enterNmi, hframe]

/-- Settles O9: the entry is `takeInterrupt_spec`, which leaves the APU alone. -/
theorem irqEntersHandler : Obligations.IrqEntersHandler := by
  intro s hnmi hline hi
  have hcpu : s.cpuPart = .next s.enterIrq := by simp [State.cpuPart, State.poll, hnmi, hline, hi]
  obtain ⟨hpc, hi, hflags, hpushed, hframe⟩ :=
    takeInterrupt_spec (s := s) (ret := s.pc) (status := statusInt s.p) (vec := 0xFFFE) (by decide) (by decide) rfl
  refine ⟨s.enterIrq, hcpu, hpc, hi, hflags, hpushed, ?_, ?_⟩
  · rw [State.enterIrq, hframe]
  · rw [State.enterIrq, hframe]
    exact hline

/-- Settles O10: BRK is `takeInterrupt_spec` with PC + 2 and B set. -/
theorem brkEntersHandler : Obligations.BrkEntersHandler :=
  ⟨rfl, fun _ => ⟨_, rfl, takeInterrupt_spec (by decide) (by decide) rfl⟩⟩

theorem exec_rti (s : State) :
    exec .rti s = .next { s with p := pulled s 0 ||| 0x20, pc := word (pulled s 2) (pulled s 1), sp := s.sp + 3 } := by
  have hlater (k : Nat) : pulled { s with sp := s.sp + 1, p := statusPulled (pulled s 0) } k = pulled s (k + 1) :=
    pulled_sp_add_one s k
  simp only [exec, execRti, State.returnFromInterrupt, pull_eq_pulled, State.setP, pull16_eq_pulled, hlater, State.setPc,
    BitVec.add_assoc]
  rfl

/-- Settles O11: one pull of P, then a 16-bit pull. -/
theorem rtiRestoresState : Obligations.RtiRestoresState := ⟨rfl, exec_rti⟩

/-- RTI takes back what an entry pushed, the last byte first (60_exceptions.md R435). -/
theorem exec_rti_of_pushed {ret : Word} {status : Byte} (h : Pushed s t [hiByte ret, loByte ret, status])
    (hpar : t.params = s.params) (hwf : Memory.wf s.ram = true) :
    exec .rti t = .next { t with p := status ||| 0x20, pc := ret, sp := s.sp } := by
  have hp : pulled t 0 = status := pulled_of_pushed h hpar hwf (by simp)
  have hlo : pulled t 1 = loByte ret := pulled_of_pushed h hpar hwf (by simp)
  have hhi : pulled t 2 = hiByte ret := pulled_of_pushed h hpar hwf (by simp)
  obtain ⟨hsp, -⟩ := h
  have hback : t.sp + 3 = s.sp := by
    rw [hsp]
    exact BitVec.sub_add_cancel s.sp 3
  rw [exec_rti, hp, hlo, hhi, word_split, hback]

/-- RTI right after an entry whose pushed status has bit 5 set, whatever the entry costs. -/
theorem exec_rti_takeInterrupt {ret : Word} {status : Byte} {vec : Word} (hlo : 0x4020 ≤ vec.toNat) (hhi : vec.toNat < 0xFFFF)
    (hst : status ||| 0x20 = status) (hwf : Memory.wf s.ram = true)
    (ht : t = { s.takeInterrupt ret status vec with cost := t.cost }) :
    ∃ u, exec .rti t = .next u ∧ u.pc = ret ∧ u.p = status ∧ u.sp = s.sp ∧ u.a = s.a ∧ u.x = s.x ∧ u.y = s.y := by
  obtain ⟨-, -, -, hpushed, hframe⟩ := takeInterrupt_spec (s := s) (ret := ret) (status := status) hlo hhi rfl
  rw [hframe] at ht
  have hpar : t.params = s.params := by rw [ht]
  have hpushed' : Pushed s t [hiByte ret, loByte ret, status] := by rw [ht]; exact hpushed
  refine ⟨_, exec_rti_of_pushed hpushed' hpar hwf, rfl, hst, rfl, ?_, ?_, ?_⟩
  all_goals exact ht ▸ rfl

theorem statusBrk_or (p : Byte) : statusBrk p ||| 0x20 = statusBrk p := by
  rw [statusBrk, BitVec.or_assoc]
  rfl

theorem statusInt_or (p : Byte) : statusInt p ||| 0x20 = statusInt p := by
  rw [statusInt, BitVec.or_assoc]
  rfl

/-- Settles O12: all three entries are `exec_rti_takeInterrupt`. -/
theorem rtiUndoesEntry : Obligations.RtiUndoesEntry := by
  intro s hwf
  refine ⟨fun t ht => ?brk, ?nmi, ?irq⟩
  case brk =>
    have hbrk : t = s.takeInterrupt (s.pc + 2) (statusBrk s.p) 0xFFFE := (Host.Outcome.next.inj ht).symm
    exact exec_rti_takeInterrupt (vec := 0xFFFE) (by decide) (by decide) (statusBrk_or s.p) hwf (by rw [hbrk]; rfl)
  case nmi =>
    exact exec_rti_takeInterrupt (s := { s with nmiPending := false }) (vec := 0xFFFA) (by decide) (by decide)
      (statusInt_or s.p) hwf rfl
  case irq => exact exec_rti_takeInterrupt (vec := 0xFFFE) (by decide) (by decide) (statusInt_or s.p) hwf rfl

end Sys2Proof
end

section
/-! PROOFS. Operands, stores and cycle counts (30_encoding.md R113 to R127; 40_load_store.md R154 to R156;
70_reset_and_hazards.md R770, R771). -/

namespace Sys2Proof

open Machine Claims

variable {s t : State} {i : Instr}

/-! The default cycle counts. -/

/-- A well-formed instruction is a row of the decoder's table, completed with operand bytes. -/
theorem exists_complete_of_wellFormed (h : i.wellFormed = true) : ∃ op lo hi, i = (opcodeFormat op).complete lo hi := by
  obtain ⟨op, lo, hi, hrow, -⟩ := decode_eq_ok (decodeEncode i [] h)
  exact ⟨op, lo, hi, hrow⟩

/-- A row's cycle count does not depend on the operand bytes. -/
theorem tableRow_complete_eq_zero (op lo hi : Byte) :
    tableRow ((opcodeFormat op).complete lo hi) = tableRow ((opcodeFormat op).complete 0 0) := by
  obtain ⟨⟨n, hn⟩⟩ := op
  interval_cases n <;> rfl

/-- The table by opcode and the table by mnemonic and mode agree in each of the 256 rows. -/
theorem tableRow_complete_opcodeFormat (op lo hi : Byte) :
    tableRow ((opcodeFormat op).complete lo hi) = defaultCycleRow op := by
  have rows : ∀ op : Byte, tableRow ((opcodeFormat op).complete 0 0) = defaultCycleRow op := by decide
  rw [tableRow_complete_eq_zero, rows]

/-- Settles O33: a well-formed instruction is a row of the decoder's table, and the two cycle tables agree in every row. -/
theorem cyclesMatchTable : Obligations.CyclesMatchTable := by
  intro pr i hpr hwf
  obtain ⟨op, lo, hi, rfl⟩ := exists_complete_of_wellFormed hwf
  simp only [instrCycles, opcode_complete_opcodeFormat, cycleRow, hpr, List.lookup_nil, Option.getD_none,
    tableRow_complete_opcodeFormat]

/-! Effective addresses. -/

theorem toNat_indexed (base : Word) (idx : Byte) : (indexed base idx).1.toNat = (base.toNat + idx.toNat) % 65536 := by
  have hidx := idx.isLt
  simp only [indexed, BitVec.toNat_add, BitVec.toNat_setWidth]
  omega

theorem indexed_cross (base : Word) (idx : Byte) :
    (indexed base idx).2 = decide ((base.toNat + idx.toNat) % 65536 / 256 ≠ base.toNat / 256) := by
  rw [← toNat_indexed, Bool.eq_iff_iff, decide_eq_true_iff, ne_eq, ← hiByte_eq_iff]
  exact bne_iff_ne

theorem toNat_zeroPage_add (b x : Byte) : ((b + x).setWidth 16 : Word).toNat = (b.toNat + x.toNat) % 256 := by
  simp only [BitVec.toNat_setWidth, BitVec.toNat_add]
  omega

/-- The effective address of an indexed indirect operand: the pointer's bytes stay in page 0 (30_encoding.md R126). -/
theorem toNat_resolve_indx (s : State) (b : Byte) :
    (s.resolve (.indx b)).1.toNat = 256 * (Memory.read s.ram ((b.toNat + s.x.toNat + 1) % 256)).toNat +
      (Memory.read s.ram ((b.toNat + s.x.toNat) % 256)).toNat := by
  simp only [State.resolve, State.zpPointer_eq, toNat_word, BitVec.toNat_add]
  simp [Nat.mul_comm]

/-- The pointer of an indirect indexed operand, as a number (30_encoding.md R127). -/
theorem toNat_zpPointer (s : State) (b : Byte) :
    (s.zpPointer b).1.toNat = 256 * (Memory.read s.ram ((b.toNat + 1) % 256)).toNat + (Memory.read s.ram b.toNat).toNat := by
  simp only [State.zpPointer_eq, toNat_word, BitVec.toNat_add]
  simp [Nat.mul_comm]

/-- The second byte of JMP's pointer is read in the page of the first (30_encoding.md R125). -/
theorem eq_word_of_toNat_eq {w high : Word} (h : high.toNat = 256 * (w.toNat / 256) + (w.toNat + 1) % 256) :
    high = word (hiByte w) (loByte w + 1) := by
  have hw := w.isLt
  have hone : (1 : Byte).toNat = 1 := rfl
  apply BitVec.eq_of_toNat_eq
  rw [h, toNat_word]
  simp only [hiByte, loByte, BitVec.extractLsb'_toNat, BitVec.toNat_add, BitVec.toNat_setWidth, Nat.shiftRight_eq_div_pow,
    hone]
  omega

/-- Settles O31: mode by mode, the address as a number. -/
theorem addressingModesResolve : Obligations.AddressingModesResolve := by
  intro s b w
  refine ⟨State.resolve_state s, ⟨?zp, rfl, rfl⟩, ⟨toNat_zeroPage_add b s.x, rfl, rfl⟩, ⟨toNat_zeroPage_add b s.y, rfl, rfl⟩,
    ⟨rfl, rfl, rfl⟩, ⟨toNat_indexed w s.x, indexed_cross w s.x, rfl⟩, ⟨toNat_indexed w s.y, indexed_cross w s.y, rfl⟩,
    ⟨toNat_resolve_indx s b, rfl, rfl⟩, fun base hbase => ?indy, ⟨branchTarget_eq_ofInt s b, ?branch, rfl⟩,
    fun high hhigh => ⟨?jump, rfl⟩⟩
  case zp => simp only [State.resolve, BitVec.toNat_setWidth]; omega
  case indy =>
    rw [← toNat_zpPointer] at hbase
    rw [hbase]
    exact ⟨toNat_indexed _ s.y, indexed_cross _ s.y, rfl⟩
  case branch => rw [branching_true, ite_not]
  case jump =>
    rw [eq_word_of_toNat_eq hhigh]
    rfl

/-! Bus reads. -/

/-- Outside the registers that have side effects a read changes nothing (20_memory.md R80). -/
theorem cpuRead_state_of_quiet {a : Word} (hppu : ¬ (0x2000 ≤ a.toNat ∧ a.toNat < 0x4000))
    (hio : ¬ (0x4015 ≤ a.toNat ∧ a.toNat ≤ 0x4017)) : (s.cpuRead a).2 = s := by
  unfold State.cpuRead
  split
  · rfl
  rw [if_neg (by omega)]
  split
  · rfl
  rw [if_neg (by omega), if_neg (by omega), if_neg (by omega)]
  split <;> rfl

/-- Settles O32: the frame is `State.cpuRead_frame`. -/
theorem operandIsReadOnce : Obligations.OperandIsReadOnce := by
  refine fun s => ⟨fun _ => rfl, State.operand_mem s, fun a t ht => ?_⟩
  subst ht
  exact ⟨State.cpuRead_frame s a, cpuRead_state_of_quiet⟩

/-! Stores. -/

/-- An ill-formed instruction, or one whose opcode 70_reset_and_hazards.md R770 does not mark `*`. -/
def crossFree (i : Instr) : Bool := !i.wellFormed || i.opcode.all (fun op => !pageCrossOpcodes.contains op.toNat)

/-- The forms of a storing instruction that can cross a page (`State.resolve_cross`) are not marked (R771). -/
structure CrossFormsFree (mk : Addr → Instr) : Prop where
  absx : ∀ w, crossFree (mk (.absx w)) = true
  absy : ∀ w, crossFree (mk (.absy w)) = true
  indy : ∀ b, crossFree (mk (.indy b)) = true

theorem instrCycles_pageCross_of_crossFree {pr : Params} (hpr : pr.cycleOverrides = []) (hi : i.wellFormed = true)
    (hf : crossFree i = true) : (instrCycles pr i).pageCross = false := by
  cases hop : i.opcode with
  | none => simp only [instrCycles, hop]
  | some op =>
    rw [instrCycles_pageCross hpr hop]
    simpa [crossFree, hi, hop] using hf

theorem storing_cross_free {mk : Addr → Instr} {m : Addr} (hmk : CrossFormsFree mk) (hpr : s.params.cycleOverrides = [])
    (hwf : (mk m).wellFormed = true) : ((s.resolve m).2.1 && (instrCycles s.params (mk m)).pageCross) = false := by
  cases hc : (s.resolve m).2.1 with
  | false => rfl
  | true =>
    have hfree : crossFree (mk m) = true := by
      obtain ⟨w, rfl⟩ | ⟨w, rfl⟩ | ⟨b, rfl⟩ := State.resolve_cross hc
      · exact hmk.absx w
      · exact hmk.absy w
      · exact hmk.indy b
    exact instrCycles_pageCross_of_crossFree hpr hwf hfree

/-- What the stores share. -/
theorem storing_spec {mk : Addr → Instr} {m : Addr} {d : Byte} (hexec : exec (mk m) s = .next (s.storing (mk m) m d))
    (hmk : CrossFormsFree mk) :
    ∃ t, exec (mk m) s = .next t ∧
      t = { s.cpuWrite (s.resolve m).1 d with pc := t.pc, cost := t.cost } ∧
      SameRegs s t ∧ StoredAt s t (s.resolve m).1 d ∧ StoreFrame s t (1 + m.size) ∧
      (s.params.cycleOverrides = [] → (mk m).wellFormed = true →
        t.cost = s.cost + if (s.resolve m).1 = 0x4014 then 513 + (s.cycles + s.cost) % 2 else 0) := by
  refine ⟨_, hexec, ?_⟩
  rw [State.storing_eq]
  refine ⟨rfl, by simp [SameRegs], storedAt_cpuWrite s _ d, ?frame, fun hpr hwf => ?cost⟩
  case frame =>
    unfold StoreFrame
    rw [State.cpuWrite_frame]
    rfl
  case cost =>
    rw [State.advance_cost, State.chargeCross_cost, State.cpuWrite_params, storing_cross_free hmk hpr hwf, State.cpuWrite_cost]
    split <;> rfl

/-- Settles O15: the opcodes row by row; then each store is `storing_spec` for its register. -/
theorem storesWriteByte : Obligations.StoresWriteByte := by
  refine ⟨fun _ _ => rfl, fun _ _ => rfl, fun _ _ => rfl, fun m s => ?_⟩
  rw [← List.forall_iff_forall_mem]
  refine ⟨?sta, ?stx, ?sty⟩
  case sta => exact storing_spec (mk := .sta) rfl ⟨fun _ => rfl, fun _ => rfl, fun _ => rfl⟩
  case stx => exact storing_spec (mk := .stx) rfl ⟨fun _ => rfl, fun _ => rfl, fun _ => rfl⟩
  case sty => exact storing_spec (mk := .sty) rfl ⟨fun _ => rfl, fun _ => rfl, fun _ => rfl⟩

/-! Signed overflow. -/

/-- V of ADC compares the sign of the result with the signs of the operands. -/
theorem overflowAdd_eq_msb (a m r : Byte) : overflowAdd a m r = ((a.msb ^^ r.msb) && (m.msb ^^ r.msb)) := by
  simp [overflowAdd, BitVec.msb_eq_getLsbD_last]

/-- V of SBC is V of the addition of the complement, which is what SBC does (41_arith_logic.md R206). -/
theorem overflowSub_eq_overflowAdd_not (a m r : Byte) : overflowSub a m r = overflowAdd a (~~~m) r := by
  have hsub : overflowSub a m r = ((a.msb ^^ m.msb) && (a.msb ^^ r.msb)) := by
    simp [overflowSub, BitVec.msb_eq_getLsbD_last]
  rw [hsub, overflowAdd_eq_msb, BitVec.msb_not]
  cases a.msb <;> cases m.msb <;> cases r.msb <;> rfl

/-- The sum of two signed bytes and a carry leaves -128..127 exactly when both have a sign that the result has not
(41_arith_logic.md R201). -/
theorem overflowAdd_wrap_preAdd (a m : Byte) (c : Bool) :
    overflowAdd a m (wrap (preAdd a m c)) =
      decide (a.toInt + m.toInt + c.toNat < -128 ∨ 127 < a.toInt + m.toInt + c.toNat) := by
  have ha := a.isLt
  have hm := m.isLt
  have hc := c.toNat_le
  rw [overflowAdd_eq_msb, Bool.eq_iff_iff]
  simp only [BitVec.msb_eq_decide, wrap, preAdd, BitVec.toNat_ofNat, BitVec.toInt_eq_toNat_cond, Bool.and_eq_true, bne_iff_ne,
    ne_eq, decide_eq_decide, decide_eq_true_eq]
  split <;> split <;> omega

theorem toInt_not_eq (m : Byte) : (~~~m).toInt = -m.toInt - 1 := by
  have hm := m.isLt
  simp only [BitVec.toInt_eq_toNat_cond, BitVec.toNat_not]
  split <;> split <;> omega

/-- Settles O20: ADC and SBC set the V of `overflowAdd_wrap_preAdd`, SBC for the complement of the operand. -/
theorem overflowIsSigned : Obligations.OverflowIsSigned := by
  refine fun m s t => ⟨fun h => ?adc, fun h => ?sbc⟩
  case adc =>
    obtain ⟨ha, -, hv, -⟩ := carryArith_spec preAdd overflowAdd (Host.Outcome.next.inj h).symm crossFormsMarked_adc
    rw [hv, ha, overflowAdd_wrap_preAdd]
  case sbc =>
    obtain ⟨ha, -, hv, -⟩ := carryArith_spec preSub overflowSub (Host.Outcome.next.inj h).symm crossFormsMarked_sbc
    have hpre : preSub s.a (s.operand m).1 s.flagC = preAdd s.a (~~~(s.operand m).1) s.flagC := rfl
    rw [hv, ha, overflowSub_eq_overflowAdd_not, hpre, overflowAdd_wrap_preAdd, toInt_not_eq]
    congr! 2 <;> omega

end Sys2Proof
end

section
/-! PROOFS. Open bus, the absent cartridge, and the two mappers as the CPU sees them (20_memory.md R79; 61_bus_cartridge.md R485,
R490, R494, R500). -/

namespace Sys2Proof

open Machine

variable {s : State} {a : Word} {d : Byte}

/-! Open bus. -/

theorem openBus_default {pr : Params} (h : pr.openBusOverrides = []) (a : Word) : (openBus pr a).toNat = a.toNat / 256 := by
  have ha := a.isLt
  simp only [openBus, h, List.lookup_nil, Option.getD_none, hiByte, BitVec.extractLsb'_toNat, Nat.shiftRight_eq_div_pow]
  omega

/-- Where nothing drives the bus: the unreadable APU registers, 0x4018 to 0x401F, and a cartridge below its PRG-RAM
(61_bus_cartridge.md R460, R485). -/
theorem cpuRead_openBus (h : (0x4000 ≤ a.toNat ∧ a.toNat ≤ 0x4014) ∨ (0x4018 ≤ a.toNat ∧ a.toNat ≤ 0x401F) ∨
    (s.cart.present = true ∧ 0x4020 ≤ a.toNat ∧ a.toNat < 0x6000)) : s.cpuRead a = (openBus s.params a, s) := by
  rcases h with ⟨hlo, hhi⟩ | ⟨hlo, hhi⟩ | ⟨hpr, hlo, hhi⟩
  · rw [State.cpuRead, if_neg (by omega), if_neg (by omega), if_pos (by omega)]
  · rw [State.cpuRead, if_neg (by omega), if_neg (by omega), if_neg (by omega), if_neg (by omega), if_neg (by omega),
      if_neg (by omega), if_pos (by omega)]
  · rw [State.cpuRead_of_cart hlo, Cart.read, hpr, if_neg Bool.noConfusion, if_pos hhi]

/-- Nothing between the controller ports and PRG-RAM takes a write (61_bus_cartridge.md R461, R485). -/
theorem cpuWrite_ignored (hlo : 0x4018 ≤ a.toNat) (hhi : a.toNat < 0x6000) : s.cpuWrite a d = s := by
  by_cases hcart : 0x4020 ≤ a.toNat
  · have hwrite : s.cart.write a d = s.cart := by rw [Cart.write, if_pos hhi, ite_self]
    rw [State.cpuWrite_of_cart hcart, hwrite]
  · rw [State.cpuWrite, if_neg (by omega), if_neg (by omega), if_neg (by omega), if_neg (by omega), if_neg (by omega),
      if_neg (by omega), if_neg (by omega), if_pos (by omega)]

/-- Settles O35: the three regions of open bus, the absent cartridge, and the ignored writes. -/
theorem openBusAndAbsent : Obligations.OpenBusAndAbsent := by
  refine fun s a d hpr => ⟨fun h => ?openBus, fun habsent hlo => ⟨?absentRead, ?absentWrite⟩,
    fun ⟨hlo, hhi⟩ => cpuWrite_ignored hlo hhi⟩
  case openBus =>
    rw [cpuRead_openBus h]
    exact ⟨openBus_default hpr a, rfl⟩
  case absentRead => rw [State.cpuRead_of_cart hlo, Cart.read, if_pos habsent]
  case absentWrite => rw [State.cpuWrite_of_cart hlo, Cart.write, if_pos habsent]

/-! Mapper 0. -/

/-- A write from 0x8000 on is the mapper's (61_bus_cartridge.md R498). -/
theorem cpuWrite_mapper (hpr : s.cart.present = true) (ha : 0x8000 ≤ a.toNat) :
    s.cpuWrite a d = { s with cart := s.cart.mapperWrite a d } := by
  rw [State.cpuWrite_of_cart (by omega), Cart.write, hpr, if_neg Bool.noConfusion, if_neg (by omega), if_neg (by omega)]

theorem cpuRead_prgRom (hpr : s.cart.present = true) (ha : 0x8000 ≤ a.toNat) :
    s.cpuRead a = (Memory.read s.cart.prgRom (s.cart.prgIndex a), s) := by
  rw [State.cpuRead_of_cart (by omega), Cart.read, hpr, if_neg Bool.noConfusion, if_neg (by omega), if_neg (by omega)]

/-- Bit 14 of a PRG address chooses the window (61_bus_cartridge.md R485). -/
theorem getLsbD_fourteen (ha : 0x8000 ≤ a.toNat) : a.getLsbD 14 = decide (0xC000 ≤ a.toNat) := by
  have hlt := a.isLt
  rw [BitVec.getLsbD, Nat.testBit_eq_decide_div_mod_eq, decide_eq_decide]
  omega

theorem prgIndex_nrom (hk : s.cart.mapperKind = .nrom) (ha : 0x8000 ≤ a.toNat) :
    s.cart.prgIndex a =
      if 0xC000 ≤ a.toNat then 16384 * (s.cart.nPrg - 1) + (a.toNat - 0xC000) else a.toNat - 0x8000 := by
  have hlt := a.isLt
  simp only [Cart.prgIndex, Cart.prgWindow, hk, getLsbD_fourteen ha, decide_eq_true_eq, BitVec.toNat_setWidth]
  split <;> omega

/-- Settles O37: the two windows of `prgIndex_nrom`. -/
theorem nromMapsFirstAndLastBank : Obligations.NromMapsFirstAndLastBank := by
  intro s a d hpr hk ha
  have hlt := a.isLt
  refine ⟨?write, fun hlo => ?first, fun hhi => ?last, fun hone hlo => ?mirror⟩
  case write =>
    rw [cpuWrite_mapper hpr ha, Cart.mapperWrite, hk]
  case first => rw [cpuRead_prgRom hpr ha, prgIndex_nrom hk ha, if_neg (by omega)]
  case last => rw [cpuRead_prgRom hpr ha, prgIndex_nrom hk ha, if_pos hhi]
  case mirror =>
    have hsum : (a + 0x4000).toNat = a.toNat + 0x4000 := by
      have hbank : (0x4000 : Word).toNat = 0x4000 := rfl
      rw [BitVec.toNat_add, hbank]
      omega
    have hback : a.toNat + 0x4000 - 0xC000 = a.toNat - 0x8000 := by omega
    rw [cpuRead_prgRom hpr ha, cpuRead_prgRom hpr (by omega), prgIndex_nrom hk ha, prgIndex_nrom hk (by omega),
      if_neg (by omega), if_pos (by omega), hsum, hone,
      Nat.sub_self, Nat.mul_zero, Nat.zero_add, hback]

/-! MMC1. -/

/-- The machine with other MMC1 registers. -/
def withMmc1 (s : State) (r : Mmc1) : State := { s with cart := { s.cart with mmc1 := r } }

theorem cpuWrite_withMmc1 (hpr : s.cart.present = true) (hk : s.cart.mapperKind = .mmc1) (r : Mmc1) (ha : 0x8000 ≤ a.toNat)
    (d : Byte) : (withMmc1 s r).cpuWrite a d = withMmc1 s (r.write a d) := by
  have hmapper : (withMmc1 s r).cart.mapperWrite a d = { s.cart with mmc1 := r.write a d } := by
    simp only [Cart.mapperWrite, withMmc1, hk]
  rw [cpuWrite_mapper (s := withMmc1 s r) hpr ha, hmapper]
  rfl

/-- The MMC1 shift register after one more bit, which enters at the top (61_bus_cartridge.md R500). -/
def shiftIn (sh : BitVec 5) (d : Byte) : BitVec 5 := sh >>> 1 ||| (d.setWidth 1).setWidth 5 <<< 4

/-- Before the fifth, a write with bit 7 clear shifts its bit 0 in. -/
theorem mmc1Write_shift {r : Mmc1} (hd : d.getLsbD 7 = false) (hc : r.count + 1 ≠ 5) (a : Word) :
    r.write a d = { r with shift := shiftIn r.shift d, count := r.count + 1 } := by
  rw [Mmc1.write, hd, if_neg Bool.noConfusion]
  exact if_neg hc

/-- The fifth write with bit 7 clear loads the register that its address selects. -/
theorem mmc1Write_fifth {r : Mmc1} (hd : d.getLsbD 7 = false) (hc : r.count + 1 = 5) (ha : 0x8000 ≤ a.toNat) :
    r.write a d =
      if a.toNat < 0xA000 then { r with shift := 0, count := 0, control := shiftIn r.shift d }
      else if a.toNat < 0xC000 then { r with shift := 0, count := 0, chr0 := shiftIn r.shift d }
      else if a.toNat < 0xE000 then { r with shift := 0, count := 0, chr1 := shiftIn r.shift d }
      else { r with shift := 0, count := 0, prg := shiftIn r.shift d } := by
  have hlt := a.isLt
  have hsel : (a.extractLsb' 13 2).toNat = a.toNat / 8192 % 4 := by
    rw [BitVec.extractLsb'_toNat, Nat.shiftRight_eq_div_pow]
  rw [Mmc1.write, hd, if_neg Bool.noConfusion]
  simp only [if_pos hc, hsel]
  by_cases h0 : a.toNat < 0xA000
  · rw [if_pos h0, show a.toNat / 8192 % 4 = 0 by omega]
    rfl
  rw [if_neg h0]
  by_cases h1 : a.toNat < 0xC000
  · rw [if_pos h1, show a.toNat / 8192 % 4 = 1 by omega]
    rfl
  rw [if_neg h1]
  by_cases h2 : a.toNat < 0xE000
  · rw [if_pos h2, show a.toNat / 8192 % 4 = 2 by omega]
    rfl
  · rw [if_neg h2, show a.toNat / 8192 % 4 = 3 by omega]
    rfl

/-- Five bits shifted in are the register's value, the first the least significant, whatever it held before. -/
theorem shiftIn_five {v : BitVec 5} {d1 d2 d3 d4 d5 : Byte}
    (hv : ∀ k, k < 5 → v.getLsbD k = ([d1, d2, d3, d4, d5].getD k 0).getLsbD 0) (sh : BitVec 5) :
    shiftIn (shiftIn (shiftIn (shiftIn (shiftIn sh d1) d2) d3) d4) d5 = v := by
  apply BitVec.eq_of_getLsbD_eq
  intro k hk
  rw [hv k hk]
  interval_cases k <;> simp [shiftIn]

/-- Settles O38: four writes shift, the fifth loads; a write with bit 7 set is one equation of `Mmc1.write`. -/
theorem mmc1FiveWritesLoadRegister : Obligations.Mmc1FiveWritesLoadRegister := by
  intro s a1 a2 a3 a4 a5 d1 d2 d3 d4 d5 hpr hk ha
  obtain ⟨ha1, ha2, ha3, ha4, ha5⟩ : 0x8000 ≤ a1.toNat ∧ 0x8000 ≤ a2.toNat ∧ 0x8000 ≤ a3.toNat ∧ 0x8000 ≤ a4.toNat ∧
      0x8000 ≤ a5.toNat := by simpa using ha
  refine ⟨fun hc hd v hv => ?load, fun hd => ?reset⟩
  case load =>
    obtain ⟨hd1, hd2, hd3, hd4, hd5⟩ : d1.getLsbD 7 = false ∧ d2.getLsbD 7 = false ∧ d3.getLsbD 7 = false ∧
        d4.getLsbD 7 = false ∧ d5.getLsbD 7 = false := by simpa using hd
    change (((((withMmc1 s s.cart.mmc1).cpuWrite a1 d1).cpuWrite a2 d2).cpuWrite a3 d3).cpuWrite a4 d4).cpuWrite a5 d5 =
      withMmc1 s _
    rw [cpuWrite_withMmc1 hpr hk _ ha1, cpuWrite_withMmc1 hpr hk _ ha2, cpuWrite_withMmc1 hpr hk _ ha3,
      cpuWrite_withMmc1 hpr hk _ ha4, cpuWrite_withMmc1 hpr hk _ ha5, mmc1Write_shift hd1 (by simp [hc]),
      mmc1Write_shift hd2 (by simp [hc]), mmc1Write_shift hd3 (by simp [hc]), mmc1Write_shift hd4 (by simp [hc]),
      mmc1Write_fifth hd5 (by simp [hc]) ha5]
    simp only [shiftIn_five hv]
  case reset =>
    change (withMmc1 s s.cart.mmc1).cpuWrite a1 d1 = withMmc1 s _
    rw [cpuWrite_withMmc1 hpr hk _ ha1, Mmc1.write, if_pos hd]

end Sys2Proof
end

section
/-! PROOFS. The controller ports (61_bus_cartridge.md R510, R511; 64_scheduler.md R725). -/

namespace Sys2Proof

open Machine Claims

variable {s u : State} {port : Bool} {b : Byte} {n : Nat}

/-- The address of a controller port: 0x4016, and 0x4017 for port 2. -/
def padAddr (port : Bool) : Word := if port then 0x4017 else 0x4016

/-- A port's shift register. -/
def padShift (c : Pads) (port : Bool) : Byte := if port then c.sr1 else c.sr0

/-- How many bits of a port's shift register have been read. -/
def padCount (c : Pads) (port : Bool) : Nat := if port then c.reads1 else c.reads0

theorem cpuRead_padAddr (s : State) (port : Bool) : s.cpuRead (padAddr port) = s.readPad port (padAddr port) := by
  cases port <;> rfl

/-- What a port's read gives: open bus in bits 7:5, the button in bit 0 (61_bus_cartridge.md R511). -/
def padValue (s : State) (port : Bool) (button : Bool) : Byte :=
  (openBus s.params (padAddr port) &&& 0xE0) ||| (if button then 0x01 else 0x00)

/-- A port gives the buttons in order, then ones. -/
theorem shiftOut_value (c : Pads) (port : Bool) :
    (c.shiftOut port).1 = if padCount c port < 8 then (padShift c port).getLsbD (padCount c port) else true := by
  cases port <;> simp only [Pads.shiftOut, padCount, padShift, Bool.false_eq_true, if_false, if_true] <;> split <;> rfl

/-- Taking a bit of a port counts it, up to 8, and changes nothing else. -/
theorem shiftOut_pads (c : Pads) (port : Bool) :
    (c.shiftOut port).2.strobe = c.strobe ∧
    (∀ q, padShift (c.shiftOut port).2 q = padShift c q) ∧
    (∀ q, padCount (c.shiftOut port).2 q = if q = port ∧ padCount c q < 8 then padCount c q + 1 else padCount c q) := by
  unfold Pads.shiftOut
  cases port
  case false =>
    rw [if_neg Bool.noConfusion]
    by_cases h : c.reads0 < 8
    · simp [h, padShift, padCount]
    · simp [h, padShift, padCount]
  case true =>
    rw [if_pos rfl]
    by_cases h : c.reads1 < 8
    · simp [h, padShift, padCount]
    · simp [h, padShift, padCount]

theorem readPad_value (s : State) (port button : Bool)
    (h : (Pads.shiftOut (if s.pads.strobe then s.reloadPad port else s).pads port).1 = button) :
    (s.readPad port (padAddr port)).1 = padValue s port button := by
  have hparams : (if s.pads.strobe then s.reloadPad port else s).params = s.params := by
    split
    · cases port <;> rfl
    · rfl
  simp only [State.readPad, h, hparams, padValue]
  cases button <;> rfl

/-! With the strobe at 0. -/

/-- The strobe is 0, and of the buttons `b` latched in a port's shift register `n` bits have been read, or all. -/
structure Latched (s : State) (port : Bool) (b : Byte) (n : Nat) (u : State) : Prop where
  strobe : u.pads.strobe = false
  shift : padShift u.pads port = b
  count : padCount u.pads port = min n 8
  params : u.params = s.params

theorem latched_readPad (h : Latched s port b n u) (q : Bool) (a : Word) :
    Latched s port b (if port = q then n + 1 else n) (u.readPad q a).2 := by
  obtain ⟨hstrobe, hshift, hcount, hparams⟩ := h
  obtain ⟨hstrobe', hshift', hcount'⟩ := shiftOut_pads u.pads q
  have hread : (u.readPad q a).2 = { u with pads := (u.pads.shiftOut q).2 } := by
    simp only [State.readPad, hstrobe, Bool.false_eq_true, if_false]
  rw [hread]
  refine ⟨hstrobe'.trans hstrobe, (hshift' port).trans hshift, (hcount' port).trans ?_, hparams⟩
  rw [hcount]
  by_cases hq : port = q
  · simp only [hq, true_and, if_true]
    split <;> omega
  · rw [if_neg fun h => hq h.1, if_neg hq]

theorem latched_value (h : Latched s port b n u) :
    (u.cpuRead (padAddr port)).1 = padValue s port (if n < 8 then b.getLsbD n else true) := by
  obtain ⟨hstrobe, hshift, hcount, hparams⟩ := h
  have hbit : (u.pads.shiftOut port).1 = if n < 8 then b.getLsbD n else true := by
    rw [shiftOut_value, hshift, hcount]
    by_cases hn : n < 8
    · rw [if_pos (by omega), if_pos hn, min_eq_left hn.le]
    · rw [if_neg (by omega), if_neg hn]
  have hvalue := readPad_value u port (if n < 8 then b.getLsbD n else true) (by rw [hstrobe]; exact hbit)
  rw [cpuRead_padAddr, hvalue, padValue, hparams, padValue]

theorem padReads_succ (a : Word) (n : Nat) (s : State) : padReads a (n + 1) s = ((padReads a n s).cpuRead a).2 :=
  Function.iterate_succ_apply' _ n s

theorem latched_padReads_same (h : Latched s port b 0 u) (n : Nat) : Latched s port b n (padReads (padAddr port) n u) := by
  induction n with
  | zero => exact h
  | succ n ih =>
    rw [padReads_succ, cpuRead_padAddr]
    simpa using latched_readPad ih port (padAddr port)

theorem latched_padReads_other (h : Latched s port b 0 u) (m : Nat) :
    Latched s port b 0 (padReads (padAddr (!port)) m u) := by
  induction m with
  | zero => exact h
  | succ m ih =>
    rw [padReads_succ, cpuRead_padAddr]
    simpa using latched_readPad ih (!port) (padAddr (!port))

theorem cpuWrite_strobe (s : State) (d : Byte) : s.cpuWrite 0x4016 d = s.strobePads d := rfl

/-- A strobe of 1 and then 0 latches the buttons (61_bus_cartridge.md R510). -/
theorem latched_strobe {on off : Byte} (hon : on.getLsbD 0 = true) (hoff : off.getLsbD 0 = false) :
    Latched s port (Config.buttonDraw s.draws port.toNat) 0 ((s.cpuWrite 0x4016 on).cpuWrite 0x4016 off) := by
  rw [cpuWrite_strobe, cpuWrite_strobe, State.strobePads, State.strobePads, hon, hoff]
  cases port <;> exact ⟨rfl, rfl, rfl, rfl⟩

/-! With the strobe at 1. -/

/-- With the strobe at 1 a port's read takes its buttons anew, one draw, and gives A. -/
theorem readPad_strobed (h : s.pads.strobe = true) (port : Bool) :
    (s.readPad port (padAddr port)).1 = padValue s port ((Config.buttonDraw s.draws port.toNat).getLsbD 0) ∧
    (s.readPad port (padAddr port)).2.draws = s.draws + 1 ∧ (s.readPad port (padAddr port)).2.pads.strobe = true ∧
    (s.readPad port (padAddr port)).2.params = s.params := by
  refine ⟨readPad_value s port _ (by rw [h]; cases port <;> rfl), ?_⟩
  cases port <;> simp [State.readPad, h, State.reloadPad, Pads.shiftOut]

theorem padReads_strobed (h : s.pads.strobe = true) (port : Bool) (n : Nat) :
    (padReads (padAddr port) n s).draws = s.draws + n ∧ (padReads (padAddr port) n s).pads.strobe = true ∧
    (padReads (padAddr port) n s).params = s.params := by
  induction n with
  | zero => exact ⟨rfl, h, rfl⟩
  | succ n ih =>
    obtain ⟨hdraws, hstrobe, hparams⟩ := ih
    obtain ⟨-, hdraws', hstrobe', hparams'⟩ := readPad_strobed hstrobe port
    rw [padReads_succ, cpuRead_padAddr]
    exact ⟨hdraws'.trans (by omega), hstrobe', hparams'.trans hparams⟩

/-- What both ports do, port by port. -/
theorem pad_spec (s : State) (port : Bool) {on off : Byte} (hon : on.getLsbD 0 = true) (hoff : off.getLsbD 0 = false) :
    (∀ m n, ((padReads (padAddr port) n (padReads (padAddr (!port)) m
        ((s.cpuWrite 0x4016 on).cpuWrite 0x4016 off))).cpuRead (padAddr port)).1 =
      (openBus s.params (padAddr port) &&& 0xE0) |||
        (if n < 8 then (if (Config.buttonDraw s.draws port.toNat).getLsbD n then 0x01 else 0x00) else 0x01)) ∧
    (s.cpuWrite 0x4016 on).pads.strobe = true ∧
    (s.pads.strobe = true → ∀ n, (padReads (padAddr port) n s).draws = s.draws + n ∧
      ((padReads (padAddr port) n s).cpuRead (padAddr port)).1 =
        (openBus s.params (padAddr port) &&& 0xE0) |||
          (if (Config.buttonDraw (s.draws + n) port.toNat).getLsbD 0 then 0x01 else 0x00)) := by
  refine ⟨fun m n => ?latched, ?strobe, fun h n => ?strobed⟩
  case latched =>
    rw [latched_value (latched_padReads_same (latched_padReads_other (latched_strobe hon hoff) m) n), padValue]
    by_cases hn : n < 8
    · rw [if_pos hn, if_pos hn]
    · rw [if_neg hn, if_neg hn]
      rfl
  case strobe =>
    rw [cpuWrite_strobe, State.strobePads, hon]
    rfl
  case strobed =>
    obtain ⟨hdraws, hstrobe, hparams⟩ := padReads_strobed h port n
    obtain ⟨hvalue, -⟩ := readPad_strobed hstrobe port
    exact ⟨hdraws, by rw [cpuRead_padAddr, hvalue, padValue, hdraws, hparams]⟩

/-- Settles O39: both ports are `pad_spec`. -/
theorem controllerReadsGiveButtons : Obligations.ControllerReadsGiveButtons := by
  intro s on off hon hoff
  rw [← List.forall_iff_forall_mem]
  exact ⟨pad_spec s false hon hoff, pad_spec s true hon hoff⟩

end Sys2Proof
end

section
/-! PROOFS. OAM DMA from plain memory (61_bus_cartridge.md R515, R516). -/

namespace Sys2Proof

open Machine

variable {s u : State} {w base : Word}

theorem cpuRead_plain_value (h : s.isPlainMemory w = true) (hram : u.ram = s.ram) (hcart : u.cart = s.cart)
    (hparams : u.params = s.params) : (u.cpuRead w).1 = (s.cpuRead w).1 := by
  by_cases hw : w.toNat < 0x2000
  · rw [State.cpuRead_of_ram hw, State.cpuRead_of_ram hw, hram]
  · have hcartAddr : 0x6000 ≤ w.toNat := by
      simp only [State.isPlainMemory, hw, decide_false, Bool.false_or, Bool.and_eq_true, decide_eq_true_eq] at h
      exact h.2
    rw [State.cpuRead_of_cart (by omega), State.cpuRead_of_cart (by omega), hcart, hparams]

/-- The machine with other OAM bytes. -/
def withOam (s : State) (m : Memory) : State := { s with ppu := { s.ppu with oam := m } }

theorem dmaTarget_inj (s : State) {i j : Nat} (hi : i < 256) (hj : j < 256) (h : s.dmaTarget i = s.dmaTarget j) : i = j := by
  unfold State.dmaTarget at h
  split at h
  · exact h
  · have hadd := BitVec.eq_of_toNat_eq h
    have hbytes : BitVec.ofNat 8 i = BitVec.ofNat 8 j := by simpa using hadd
    have := congrArg BitVec.toNat hbytes
    simp only [BitVec.toNat_ofNat] at this
    omega

/-- One byte of the copy, from plain memory. -/
theorem dmaCopy_succ_plain (m : Memory) (n i : Nat) (h : s.isPlainMemory (base + BitVec.ofNat 16 i) = true) :
    State.dmaCopy base (n + 1) i (withOam s m) =
      State.dmaCopy base n (i + 1)
        (withOam s (Memory.write m (s.dmaTarget i) (s.cpuRead (base + BitVec.ofNat 16 i)).1)) := by
  have hplain : (withOam s m).isPlainMemory (base + BitVec.ofNat 16 i) = true := h
  rw [State.dmaCopy, State.cpuRead_plain hplain, cpuRead_plain_value (u := withOam s m) h rfl rfl rfl]
  rfl

/-- The copy from plain memory changes OAM only, and OAM at the targets of the bytes copied. -/
theorem dmaCopy_plain (n i : Nat) (hi : i + n ≤ 256) (h : ∀ j < 256, s.isPlainMemory (base + BitVec.ofNat 16 j) = true)
    {m : Memory} (hm : Memory.wf m = true) :
    ∃ m', State.dmaCopy base n i (withOam s m) = withOam s m' ∧
      (∀ j < 256, i ≤ j ∧ j < i + n → Memory.read m' (s.dmaTarget j) = (s.cpuRead (base + BitVec.ofNat 16 j)).1) ∧
      (∀ j < i, Memory.read m' (s.dmaTarget j) = Memory.read m (s.dmaTarget j)) := by
  induction n generalizing i m with
  | zero => exact ⟨m, rfl, fun j _ hj => by omega, fun _ _ => rfl⟩
  | succ n ih =>
    obtain ⟨m', hcopy, hnew, hold⟩ := ih (i + 1) (by omega) (Memory.wf_write _ _ hm)
    refine ⟨m', (dmaCopy_succ_plain m n i (h i (by omega))).trans hcopy, fun j hj hij => ?_, fun j hj => ?_⟩
    · by_cases hji : j = i
      · subst hji
        rw [hold j (by omega), Memory.read_write_same _ _ hm]
      · exact hnew j hj (by omega)
    · rw [hold j (by omega)]
      refine Memory.read_write_other _ hm fun heq => ?_
      exact absurd (dmaTarget_inj s (by omega) (by omega) heq) (by omega)

/-- The bytes of a page are at consecutive addresses. -/
theorem word_eq_add (d : Byte) {j : Nat} (hj : j < 256) : word d 0 + BitVec.ofNat 16 j = word d (BitVec.ofNat 8 j) := by
  have hd := d.isLt
  have hzero : (0 : Byte).toNat = 0 := rfl
  apply BitVec.eq_of_toNat_eq
  simp only [BitVec.toNat_add, toNat_word, BitVec.toNat_ofNat, hzero]
  omega

theorem isPlainMemory_page {d : Byte} (h : d.toNat < 0x20 ∨ (s.cart.present = true ∧ 0x60 ≤ d.toNat)) (i : Byte) :
    s.isPlainMemory (word d i) = true := by
  have hi := i.isLt
  rw [State.isPlainMemory, toNat_word, Bool.or_eq_true, Bool.and_eq_true, decide_eq_true_iff, decide_eq_true_iff]
  exact h.imp (fun hd => by omega) (fun hd => ⟨hd.1, by omega⟩)

/-- Settles O40: the copy is `dmaCopy_plain` for the whole page, and the cost `State.dmaCycles`. -/
theorem oamDmaCopiesPage : Obligations.OamDmaCopiesPage := by
  intro s d hoam hpage
  have hplain (j : Nat) (hj : j < 256) : s.isPlainMemory (word d 0 + BitVec.ofNat 16 j) = true := by
    rw [word_eq_add d hj]
    exact isPlainMemory_page hpage _
  obtain ⟨m, hcopy, hbytes, -⟩ := dmaCopy_plain 256 0 le_rfl hplain hoam
  have hwrite : s.cpuWrite 0x4014 d = { withOam s m with cost := s.cost + s.dmaCycles } := by
    change { State.dmaCopy (word d 0) 256 0 (withOam s s.ppu.oam) with
      cost := (State.dmaCopy (word d 0) 256 0 (withOam s s.ppu.oam)).cost + s.dmaCycles } = _
    rw [hcopy]
    rfl
  refine ⟨_, rfl, fun i => ?bytes, ?frame⟩
  case bytes =>
    have hbyte := hbytes i.toNat i.isLt ⟨Nat.zero_le _, by have := i.isLt; omega⟩
    rw [word_eq_add d i.isLt, BitVec.ofNat_toNat, BitVec.setWidth_eq] at hbyte
    rw [hwrite, ← hbyte]
    unfold State.dmaTarget
    cases s.params.oamDmaTarget with
    | doc => rfl
    | oamaddr => rw [BitVec.ofNat_toNat, BitVec.setWidth_eq]; rfl
  case frame =>
    have hcost : s.cost + s.dmaCycles = s.cost + 513 + if (s.cycles + s.cost) % 2 = 1 then 1 else 0 := by
      rw [State.dmaCycles]
      split <;> omega
    rw [hwrite, hcost]
    rfl

end Sys2Proof
end

section
/-! PROOFS. Loading a file (61_bus_cartridge.md R481 to R484, R492). -/

namespace Sys2Proof

open Machine

variable {bytes : List Byte} {d : CartDraws}

/-! The cases of a load. -/

theorem loadCart_badSignature (h : bytes.length < 16 ∨ bytes.take 4 ≠ fileMagic) :
    loadCart bytes d = (.malformed .badSignature, Cart.absent) := if_pos h

theorem loadCart_noPrg (h : ¬ (bytes.length < 16 ∨ bytes.take 4 ≠ fileMagic)) (hprg : (parseHeader bytes).nPrg = 0) :
    loadCart bytes d = (.malformed .noPrg, Cart.absent) := by
  rw [loadCart, if_neg h, if_pos hprg]

theorem loadCart_truncated (h : ¬ (bytes.length < 16 ∨ bytes.take 4 ≠ fileMagic)) (hprg : (parseHeader bytes).nPrg ≠ 0)
    (hend : bytes.length < (parseHeader bytes).dataEnd) : loadCart bytes d = (.malformed .truncated, Cart.absent) := by
  rw [loadCart, if_neg h, if_neg hprg, if_pos hend]

theorem loadCart_ok (h : ¬ (bytes.length < 16 ∨ bytes.take 4 ≠ fileMagic)) (hprg : (parseHeader bytes).nPrg ≠ 0)
    (hend : ¬ bytes.length < (parseHeader bytes).dataEnd) :
    loadCart bytes d =
      (if (parseHeader bytes).mapper = 0 ∨ (parseHeader bytes).mapper = 1 then .ok
        else .unsupportedMapper (parseHeader bytes).mapper,
      (parseHeader bytes).cart bytes d) := by
  rw [loadCart, if_neg h, if_neg hprg, if_neg hend]

/-! The header and the data. -/

theorem toNat_header_mapper (bytes : List Byte) :
    (parseHeader bytes).mapper.toNat = 16 * ((bytes.getD 7 0).toNat / 16) + (bytes.getD 6 0).toNat / 16 := by
  have h6 := (bytes.getD 6 0).isLt
  have h7 := (bytes.getD 7 0).isLt
  simp only [parseHeader, fileByte]
  rw [BitVec.toNat_append, ← Nat.shiftLeft_add_eq_or_of_lt (BitVec.isLt _)]
  simp only [BitVec.extractLsb'_toNat, Nat.shiftRight_eq_div_pow, Nat.shiftLeft_eq]
  omega

theorem getD_fileSlice (bytes : List Byte) (start : Nat) {n i : Nat} (hi : i < n) :
    (fileSlice bytes start n).getD i 0 = bytes.getD (start + i) 0 := by
  simp only [fileSlice, List.getD_eq_getElem?_getD, List.getElem?_take, hi, if_true, List.getElem?_drop]

theorem read_ofList_fileSlice (bytes : List Byte) (start : Nat) {n i : Nat} (hi : i < n) :
    Memory.read (Memory.ofList 0 (fileSlice bytes start n)) i = bytes.getD (start + i) 0 := by
  have hread := Memory.read_ofList 0 i (fileSlice bytes start n)
  rw [Nat.zero_add] at hread
  rw [hread, getD_fileSlice bytes start hi]

/-- PRG-RAM after a load: the trainer from 0x1000 on, over the draw (61_bus_cartridge.md R482). -/
theorem read_withTrainer {h : Header} {draw : Memory} (hwf : Memory.wf draw = true)
    (hlen : h.trainer = true → 528 ≤ bytes.length) (i : Nat) :
    Memory.read (withTrainer draw (h.trainerBytes bytes)) i =
      if h.trainer = true ∧ 0x1000 ≤ i ∧ i < 0x1200 then bytes.getD (16 + (i - 0x1000)) 0 else Memory.read draw i := by
  rw [withTrainer, Memory.read_writeAll _ _ _ hwf, Header.trainerBytes]
  by_cases ht : h.trainer = true
  · have hslice : (fileSlice bytes 16 512).length = 512 := by
      have := hlen ht
      rw [fileSlice, List.length_take, List.length_drop]
      omega
    rw [if_pos ht, hslice]
    by_cases hi : 0x1000 ≤ i ∧ i < 0x1200
    · rw [if_pos hi, if_pos ⟨ht, hi⟩, getD_fileSlice bytes 16 (by omega)]
    · rw [if_neg hi, if_neg fun h => hi h.2]
  · rw [if_neg ht, if_neg fun hi => not_lt_of_ge hi.1 hi.2, if_neg fun hi => ht hi.1]

theorem mapper_supported_iff (m : BitVec 8) : m = 0 ∨ m = 1 ↔ m.toNat ≤ 1 := by
  rw [← BitVec.toNat_inj, ← BitVec.toNat_inj]
  exact (Nat.le_one_iff_eq_zero_or_eq_one).symm

/-- Settles O41: the cases of `loadCart`, and field by field the cartridge of the header. -/
theorem loadCartridgeReadsFile : Obligations.LoadCartridgeReadsFile := by
  intro bytes draws f6 f7 nPrg nChr off mapper hprg hchr h6 h7 hoff hmapper
  subst hprg hchr h6 h7
  obtain rfl : (parseHeader bytes).mapper = mapper :=
    BitVec.eq_of_toNat_eq ((toNat_header_mapper bytes).trans hmapper.symm)
  have hstart : (parseHeader bytes).prgStart = off := hoff.symm
  have hchrStart : (parseHeader bytes).chrStart = off + 16384 * (bytes.getD 4 0).toNat := by
    rw [Header.chrStart, hstart]
    rfl
  have hend : (parseHeader bytes).dataEnd = off + 16384 * (bytes.getD 4 0).toNat + 8192 * (bytes.getD 5 0).toNat := by
    rw [Header.dataEnd, hchrStart]
    rfl
  by_cases hsig : bytes.length < 16 ∨ bytes.take 4 ≠ [0x4E, 0x45, 0x53, 0x1A]
  · rw [if_pos hsig]
    exact loadCart_badSignature hsig
  rw [if_neg hsig]
  by_cases hnone : (bytes.getD 4 0).toNat = 0
  · rw [if_pos hnone]
    exact loadCart_noPrg hsig hnone
  rw [if_neg hnone, ← hend]
  by_cases hshort : bytes.length < (parseHeader bytes).dataEnd
  · rw [if_pos hshort]
    exact loadCart_truncated hsig hnone hshort
  rw [if_neg hshort]
  have hload := loadCart_ok (d := draws) hsig hnone hshort
  simp only [mapper_supported_iff] at hload
  refine ⟨(parseHeader bytes).cart bytes draws, hload, rfl, rfl, rfl, fun i hi => ?prgRom, fun i hn hi => ?chrRom,
    fun hn => if_pos hn, rfl, fun hwf i => ?prgRam, rfl, rfl, rfl, rfl, rfl, rfl, rfl⟩
  case prgRom =>
    rw [← hstart]
    exact read_ofList_fileSlice bytes _ hi
  case chrRom =>
    have hchr : ((parseHeader bytes).cart bytes draws).chr =
        Memory.ofList 0 (fileSlice bytes (parseHeader bytes).chrStart (8192 * (bytes.getD 5 0).toNat)) := if_neg hn.ne'
    rw [hchr, ← hchrStart, read_ofList_fileSlice bytes _ hi]
  case prgRam =>
    refine read_withTrainer hwf (fun ht => ?_) i
    have hoff528 : off = 528 := by
      rw [← hstart, Header.prgStart, if_pos ht]
    omega

end Sys2Proof
end

section
/-! PROOFS. The VRAM address: its fields and the scroll increments (62_ppu.md R531, R583, R584). -/

namespace Sys2Proof

open Machine

/-! The fields of a VRAM address. -/

theorem toNat_append_eq {m n : Nat} (x : BitVec m) (y : BitVec n) : (x ++ y).toNat = x.toNat * 2 ^ n + y.toNat := by
  rw [BitVec.toNat_append, ← Nat.shiftLeft_add_eq_or_of_lt y.isLt, Nat.shiftLeft_eq]

theorem toNat_vMake (fineY : BitVec 3) (ntY ntX : BitVec 1) (coarseY coarseX : BitVec 5) :
    (vMake fineY ntY ntX coarseY coarseX).toNat =
      4096 * fineY.toNat + 2048 * ntY.toNat + 1024 * ntX.toNat + 32 * coarseY.toNat + coarseX.toNat := by
  simp only [vMake, toNat_append_eq]
  omega

theorem getLsbD_vMake (fineY : BitVec 3) (ntY ntX : BitVec 1) (coarseY coarseX : BitVec 5) {j : Nat} (hj : j < 15) :
    (vMake fineY ntY ntX coarseY coarseX).getLsbD j =
      if j < 5 then coarseX.getLsbD j else if j < 10 then coarseY.getLsbD (j - 5) else if j = 10 then ntX.getLsbD 0
      else if j = 11 then ntY.getLsbD 0 else fineY.getLsbD (j - 12) := by
  simp only [vMake, BitVec.getLsbD_append]
  interval_cases j <;> rfl

/-- Every VRAM address is made of its fields. -/
theorem vMake_fields (v : BitVec 15) : vMake (vFineY v) (vNtY v) (vNtX v) (vCoarseY v) (vCoarseX v) = v := by
  have hv := v.isLt
  apply BitVec.eq_of_toNat_eq
  rw [toNat_vMake]
  simp only [vFineY, vNtY, vNtX, vCoarseY, vCoarseX, BitVec.extractLsb'_toNat, Nat.shiftRight_eq_div_pow]
  omega

theorem vMake_xor_ntX (fineY : BitVec 3) (ntY ntX : BitVec 1) (coarseY coarseX : BitVec 5) :
    vMake fineY ntY ntX coarseY coarseX ^^^ 0x400 = vMake fineY ntY (~~~ntX) coarseY coarseX := by
  apply BitVec.eq_of_getLsbD_eq
  intro j hj
  rw [BitVec.getLsbD_xor, getLsbD_vMake _ _ _ _ _ hj, getLsbD_vMake _ _ _ _ _ hj]
  interval_cases j <;> simp

theorem vMake_xor_ntY (fineY : BitVec 3) (ntY ntX : BitVec 1) (coarseY coarseX : BitVec 5) :
    vMake fineY ntY ntX coarseY coarseX ^^^ 0x800 = vMake fineY (~~~ntY) ntX coarseY coarseX := by
  apply BitVec.eq_of_getLsbD_eq
  intro j hj
  rw [BitVec.getLsbD_xor, getLsbD_vMake _ _ _ _ _ hj, getLsbD_vMake _ _ _ _ _ hj]
  interval_cases j <;> simp

/-! The increments, over the fields. -/

section

variable (fineY : BitVec 3) (ntY ntX : BitVec 1) (coarseY coarseX : BitVec 5)

theorem fields_vMake :
    vFineY (vMake fineY ntY ntX coarseY coarseX) = fineY ∧ vNtY (vMake fineY ntY ntX coarseY coarseX) = ntY ∧
    vNtX (vMake fineY ntY ntX coarseY coarseX) = ntX ∧ vCoarseY (vMake fineY ntY ntX coarseY coarseX) = coarseY ∧
    vCoarseX (vMake fineY ntY ntX coarseY coarseX) = coarseX := by
  have := fineY.isLt; have := ntY.isLt; have := ntX.isLt; have := coarseY.isLt; have := coarseX.isLt
  refine ⟨?_, ?_, ?_, ?_, ?_⟩
  all_goals
    apply BitVec.eq_of_toNat_eq
    simp only [vFineY, vNtY, vNtX, vCoarseY, vCoarseX, BitVec.extractLsb'_toNat, Nat.shiftRight_eq_div_pow, toNat_vMake]
    omega

theorem incX_vMake :
    incX (vMake fineY ntY ntX coarseY coarseX) =
      if coarseX = 31 then vMake fineY ntY (~~~ntX) coarseY 0 else vMake fineY ntY ntX coarseY (coarseX + 1) := by
  obtain ⟨hfy, hny, hnx, hcy, hcx⟩ := fields_vMake fineY ntY ntX coarseY coarseX
  simp only [incX, hfy, hny, hnx, hcy, hcx]

theorem incY_vMake :
    incY (vMake fineY ntY ntX coarseY coarseX) =
      if fineY ≠ 7 then vMake (fineY + 1) ntY ntX coarseY coarseX
      else if coarseY = 29 then vMake 0 (~~~ntY) ntX 0 coarseX
      else if coarseY = 31 then vMake 0 ntY ntX 0 coarseX
      else vMake 0 ntY ntX (coarseY + 1) coarseX := by
  obtain ⟨hfy, hny, hnx, hcy, hcx⟩ := fields_vMake fineY ntY ntX coarseY coarseX
  simp only [incY, hfy, hny, hnx, hcy, hcx]

end

/-! The increments as arithmetic on the address. -/

theorem incX_eq (v : BitVec 15) : incX v = if v &&& 0x1F = 0x1F then (v - 0x1F) ^^^ 0x400 else v + 1 := by
  rw [← vMake_fields v]
  generalize vFineY v = fy, vNtY v = ny, vNtX v = nx, vCoarseY v = cy, vCoarseX v = cx
  have hfy := fy.isLt; have hny := ny.isLt; have hnx := nx.isLt; have hcy := cy.isLt; have hcx := cx.isLt
  have hv := toNat_vMake fy ny nx cy cx
  have hcond : vMake fy ny nx cy cx &&& 0x1F = 0x1F ↔ cx = 31 := by
    rw [← BitVec.toNat_inj, ← BitVec.toNat_inj, BitVec.toNat_and, toNat_vMake]
    change _ &&& (2 ^ 5 - 1) = 31 ↔ _ = 31
    rw [Nat.and_two_pow_sub_one_eq_mod]
    omega
  rw [incX_vMake]
  by_cases h : cx = 31
  · have hsub : vMake fy ny nx cy cx - 0x1F = vMake fy ny nx cy 0 := by
      have h0 := toNat_vMake fy ny nx cy 0
      bv_omega
    rw [if_pos h, if_pos (hcond.mpr h), hsub, vMake_xor_ntX]
  · rw [if_neg h, if_neg (mt hcond.mp h)]
    have h1 := toNat_vMake fy ny nx cy (cx + 1)
    bv_omega

theorem incY_eq (v : BitVec 15) :
    incY v =
      if v.toNat / 4096 < 7 then v + 0x1000
      else if v.toNat / 32 % 32 = 29 then (v - 0x73A0) ^^^ 0x800
      else if v.toNat / 32 % 32 = 31 then v - 0x73E0
      else v - 0x7000 + 0x20 := by
  rw [← vMake_fields v]
  generalize vFineY v = fy, vNtY v = ny, vNtX v = nx, vCoarseY v = cy, vCoarseX v = cx
  have hfy := fy.isLt; have hny := ny.isLt; have hnx := nx.isLt; have hcy := cy.isLt; have hcx := cx.isLt
  have hv := toNat_vMake fy ny nx cy cx
  have hfine : fy ≠ 7 ↔ (vMake fy ny nx cy cx).toNat / 4096 < 7 := by
    rw [ne_eq, ← BitVec.toNat_inj, hv]
    change ¬ _ = 7 ↔ _
    omega
  have hrow : (vMake fy ny nx cy cx).toNat / 32 % 32 = cy.toNat := by omega
  rw [incY_vMake, hrow]
  by_cases h7 : fy = 7
  · rw [if_neg (not_not.mpr h7), if_neg (mt hfine.mpr (not_not.mpr h7))]
    by_cases h29 : cy = 29
    · have hsub : vMake fy ny nx cy cx - 0x73A0 = vMake 0 ny nx 0 cx := by
        have h0 := toNat_vMake 0 ny nx 0 cx
        bv_omega
      rw [if_pos h29, if_pos (by rw [h29]; rfl), hsub, vMake_xor_ntY]
    have h29' : ¬ cy.toNat = 29 := fun h => h29 (BitVec.eq_of_toNat_eq h)
    rw [if_neg h29, if_neg h29']
    by_cases h31 : cy = 31
    · rw [if_pos h31, if_pos (by rw [h31]; rfl)]
      have h0 := toNat_vMake 0 ny nx 0 cx
      bv_omega
    · have h31' : ¬ cy.toNat = 31 := fun h => h31 (BitVec.eq_of_toNat_eq h)
      rw [if_neg h31, if_neg h31']
      have h1 := toNat_vMake 0 ny nx (cy + 1) cx
      bv_omega
  · rw [if_pos h7, if_pos (hfine.mp h7)]
    have h1 := toNat_vMake (fy + 1) ny nx cy cx
    bv_omega

/-- Settles O44, over the fields of the address. -/
theorem scrollIncrementsWrap : Obligations.ScrollIncrementsWrap := fun v => ⟨incX_eq v, incY_eq v⟩

end Sys2Proof
end

section
/-! PROOFS. The PPU registers over the PPU bus: nametable mirroring (61_bus_cartridge.md R487, 62_ppu.md R552), PPUCTRL and the
NMI edge (R535, R567), PPUADDR and PPUDATA (R546, R547). -/

namespace Sys2Proof

open Machine Claims

/-! Nametable mirroring. -/

/-- The nametable RAM that serves an address, numbered as the table of R487 numbers them. -/
def servingHalf (m : Mirroring) (p : PpuAddr) : Nat := ntHalf m (p.toNat / 1024 % 4)

theorem nametableSelect_eq (m : Mirroring) (p : PpuAddr) :
    nametableSelect m p = if servingHalf m p < 2 then .ciram (servingHalf m p) else .extra (servingHalf m p - 2) := by
  have hq : (p.extractLsb' 10 2).toNat = p.toNat / 1024 % 4 := by
    simp only [BitVec.extractLsb'_toNat, Nat.shiftRight_eq_div_pow]
  have hlt : p.toNat / 1024 % 4 < 4 := Nat.mod_lt _ (by decide)
  simp only [nametableSelect, servingHalf, hq]
  cases m with
  | horizontal => exact (if_pos (show p.toNat / 1024 % 4 / 2 < 2 by omega)).symm
  | vertical => exact (if_pos (show p.toNat / 1024 % 4 % 2 < 2 by omega)).symm
  | singleLow => rfl
  | singleHigh => rfl
  | fourScreen => rfl

/-- The offset of an address in its nametable. -/
theorem toNat_setWidth_ten (p : PpuAddr) : (p.setWidth 10).toNat = p.toNat % 1024 := by rw [BitVec.toNat_setWidth]

section

variable {s : State} {p q : PpuAddr} {d : Byte}

theorem ntRead_eq (u : Ppu) (c : Cart) (q : PpuAddr) :
    u.ntRead c q =
      if servingHalf c.mirrorMode q < 2 then Memory.read u.ciram (1024 * servingHalf c.mirrorMode q + q.toNat % 1024)
      else Memory.read c.vramExtra (1024 * (servingHalf c.mirrorMode q - 2) + q.toNat % 1024) := by
  rw [Ppu.ntRead, nametableSelect_eq, toNat_setWidth_ten]
  split_ifs <;> rfl

theorem ntWrite_eq (s : State) (p : PpuAddr) (d : Byte) :
    s.ntWrite p d =
      if servingHalf s.cart.mirrorMode p < 2 then
        { s with ppu := { s.ppu with
            ciram := Memory.write s.ppu.ciram (1024 * servingHalf s.cart.mirrorMode p + p.toNat % 1024) d } }
      else
        { s with cart := { s.cart with
            vramExtra := Memory.write s.cart.vramExtra (1024 * (servingHalf s.cart.mirrorMode p - 2) + p.toNat % 1024) d } } := by
  rw [State.ntWrite, nametableSelect_eq, toNat_setWidth_ten]
  split_ifs <;> rfl

theorem ntRead_ntWrite (hram : Memory.wf s.ppu.ciram = true) (hextra : Memory.wf s.cart.vramExtra = true) :
    (s.ntWrite p d).ppu.ntRead (s.ntWrite p d).cart q =
      if p.toNat % 1024 = q.toNat % 1024 ∧ servingHalf s.cart.mirrorMode p = servingHalf s.cart.mirrorMode q then d
      else s.ppu.ntRead s.cart q := by
  have hmirror (v : Memory) : Cart.mirrorMode { s.cart with vramExtra := v } = s.cart.mirrorMode := rfl
  rw [ntRead_eq s.ppu, ntWrite_eq]
  generalize hp : servingHalf s.cart.mirrorMode p = i
  generalize hq : servingHalf s.cart.mirrorMode q = j
  have hcases : i < 2 ∧ j < 2 ∨ i < 2 ∧ ¬ j < 2 ∨ ¬ i < 2 ∧ j < 2 ∨ ¬ i < 2 ∧ ¬ j < 2 := by omega
  obtain ⟨hi, hj⟩ | ⟨hi, hj⟩ | ⟨hi, hj⟩ | ⟨hi, hj⟩ := hcases
  · simp only [if_pos hi, ntRead_eq, hq, if_pos hj]
    split
    case isTrue same => rw [same.1, same.2, Memory.read_write_same _ _ hram]
    case isFalse other => exact Memory.read_write_other _ hram (by omega)
  · simp only [if_pos hi, ntRead_eq, hq, if_neg hj]
    rw [if_neg (by omega)]
  · simp only [if_neg hi, ntRead_eq, hmirror, hq, if_pos hj]
    rw [if_neg (by omega)]
  · simp only [if_neg hi, ntRead_eq, hmirror, hq, if_neg hj]
    split
    case isTrue same => rw [same.1, same.2, Memory.read_write_same _ _ hextra]
    case isFalse other => exact Memory.read_write_other _ hextra (by omega)

theorem busRead_nametable {u : Ppu} {c : Cart} {pr : Params} (hlo : 0x2000 ≤ q.toNat) (hhi : q.toNat < 0x3F00) :
    u.busRead c pr q = u.ntRead c q := by
  rw [Ppu.busRead, if_neg (by omega), if_pos hhi]

theorem ppuBusWrite_nametable (hlo : 0x2000 ≤ p.toNat) (hhi : p.toNat < 0x3F00) : s.ppuBusWrite p d = s.ntWrite p d := by
  rw [State.ppuBusWrite, if_neg (by omega), if_pos hhi]

end

/-- Settles O48: both addresses reach the nametable RAMs, and the table of R487 says which. -/
theorem nametableMirrorsShareBytes : Obligations.NametableMirrorsShareBytes := by
  intro s p q d hram hextra hplo hphi hqlo hqhi
  rw [ppuBusWrite_nametable hplo hphi, busRead_nametable hqlo hqhi, busRead_nametable hqlo hqhi]
  exact ntRead_ntWrite hram hextra

/-! PPUCTRL. -/

theorem cpuWrite_ppuCtrl (s : State) (d : Byte) : s.cpuWrite 0x2000 d = (s.latchPpu d).writePpuCtrl d :=
  cpuWrite_of_ppuReg (by decide) (by decide)

/-- The nametable bits of `t` are the low bits of the byte; its other bits stay. -/
theorem getLsbD_ctrlAddress (t : BitVec 15) (d : Byte) {j : Nat} (hj : j < 15) :
    (vMake (vFineY t) (d.extractLsb' 1 1) (d.extractLsb' 0 1) (vCoarseY t) (vCoarseX t)).getLsbD j =
      if j = 10 then d.getLsbD 0 else if j = 11 then d.getLsbD 1 else t.getLsbD j := by
  rw [getLsbD_vMake _ _ _ _ _ hj]
  simp only [vFineY, vCoarseY, vCoarseX, BitVec.getLsbD_extractLsb']
  interval_cases j <;> simp

/-- Settles O46: the write as one update of the state, followed by the NMI evaluation. -/
theorem ctrlWriteRaisesNmi : Obligations.CtrlWriteRaisesNmi := by
  intro s d hout
  rw [cpuWrite_ppuCtrl]
  refine ⟨?nmi, _, rfl, rfl, rfl, fun j hj => getLsbD_ctrlAddress s.ppu.t d hj, rfl⟩
  case nmi =>
    change (s.nmiPending || (s.ppu.vblank && d.getLsbD 7 && !s.ppu.nmiOut)) = _
    rw [hout, Ppu.nmiLevel]
    cases s.ppu.vblank <;> rfl

/-! PPUADDR and PPUDATA. -/

/-- The VRAM address of two PPUADDR bytes. -/
def vramAddress (hi lo : Byte) : BitVec 15 := (0 : BitVec 1) ++ hi.setWidth 6 ++ lo

theorem toNat_vramAddress (hi lo : Byte) : (vramAddress hi lo).toNat = 256 * (hi.toNat % 0x40) + lo.toNat := by
  simp only [vramAddress, toNat_append_eq, BitVec.toNat_setWidth]
  change (0 * 2 ^ 6 + hi.toNat % 2 ^ 6) * 2 ^ 8 + lo.toNat = _
  omega

/-- The high bits of `t` after the first write are those of the first byte. -/
theorem vramAddress_of_first (t : BitVec 15) (hi lo : Byte) :
    ((0 : BitVec 1) ++ hi.setWidth 6 ++ t.setWidth 8).extractLsb' 8 7 ++ lo = vramAddress hi lo := by
  have hhigh : ((0 : BitVec 1) ++ hi.setWidth 6 ++ t.setWidth 8).extractLsb' 8 7 = (0 : BitVec 1) ++ hi.setWidth 6 := by
    have ht := (t.setWidth 8).isLt
    apply BitVec.eq_of_toNat_eq
    rw [BitVec.extractLsb'_toNat, toNat_append_eq, Nat.shiftRight_eq_div_pow]
    have := ((0 : BitVec 1) ++ hi.setWidth 6).isLt
    omega
  rw [hhigh, vramAddress]

/-- The machine with a VRAM address set through PPUADDR (62_ppu.md R546). -/
def addressed (s : State) (hi lo : Byte) : State :=
  { s with ppu := { s.ppu with ioLatch := lo, t := vramAddress hi lo, v := vramAddress hi lo, w := false } }

section

variable {s : State} {hi lo d : Byte}

theorem cpuWrite_ppuAddr_twice (hw : s.ppu.w = false) (hi lo : Byte) :
    (s.cpuWrite 0x2006 hi).cpuWrite 0x2006 lo = addressed s hi lo := by
  have hwrite (u : State) (b : Byte) :
      u.cpuWrite 0x2006 b = { u with ppu := Ppu.writeAddr { u.ppu with ioLatch := b } b } :=
    cpuWrite_of_ppuReg (by decide) (by decide)
  have hfirst : Ppu.writeAddr { s.ppu with ioLatch := hi } hi =
      { s.ppu with ioLatch := hi, t := (0 : BitVec 1) ++ hi.setWidth 6 ++ s.ppu.t.setWidth 8, w := true } := by
    simp only [Ppu.writeAddr, if_pos hw]
  rw [hwrite, hwrite, hfirst]
  simp only [Ppu.writeAddr, Bool.true_eq_false, if_false, vramAddress_of_first, addressed]

theorem cpuWrite_ppuData (s : State) (d : Byte) : s.cpuWrite 0x2007 d = (s.latchPpu d).writePpuData d :=
  cpuWrite_of_ppuReg (by decide) (by decide)

theorem cpuRead_ppuData (s : State) : s.cpuRead 0x2007 = s.readPpuData := cpuRead_of_ppuReg (by decide) (by decide)

/-- PPUDATA at a nametable address writes that nametable byte, and leaves `w`. -/
theorem cpuWrite_ppuData_nametable (hlo : 0x2000 ≤ s.ppu.v.toNat) (hhi : s.ppu.v.toNat < 0x3F00) (d : Byte) :
    (s.cpuWrite 0x2007 d).ppu.w = s.ppu.w ∧
    ∀ q, (s.cpuWrite 0x2007 d).ppu.ntRead (s.cpuWrite 0x2007 d).cart q =
      ((s.latchPpu d).ntWrite (s.ppu.v.setWidth 14) d).ppu.ntRead ((s.latchPpu d).ntWrite (s.ppu.v.setWidth 14) d).cart q := by
  have hv : (s.ppu.v.setWidth 14).toNat = s.ppu.v.toNat := by rw [BitVec.toNat_setWidth, Nat.mod_eq_of_lt (by omega)]
  rw [cpuWrite_ppuData, ← ppuBusWrite_nametable (by omega) (by omega)]
  constructor
  · rw [State.writePpuData, State.ppuBusWrite_frame]; rfl
  · exact fun q => rfl

/-- The second of two PPUDATA reads at a nametable address gives the byte there, which the first one buffered. -/
theorem cpuRead_ppuData_second (hlo : 0x2000 ≤ s.ppu.v.toNat) (hhi : s.ppu.v.toNat + 32 < 0x3F00) :
    ((s.cpuRead 0x2007).2.cpuRead 0x2007).1 = s.ppu.ntRead s.cart (s.ppu.v.setWidth 14) := by
  have hv : (s.ppu.v.setWidth 14).toNat = s.ppu.v.toNat := by rw [BitVec.toNat_setWidth, Nat.mod_eq_of_lt (by omega)]
  have hinc : s.ppu.inc.toNat ≤ 32 := by unfold Ppu.inc; split <;> decide
  have hnext : ((s.ppu.v + s.ppu.inc).setWidth 14 : PpuAddr).toNat < 0x3F00 := by
    rw [BitVec.toNat_setWidth, BitVec.toNat_add, Nat.mod_eq_of_lt (a := _ + _) (by omega), Nat.mod_eq_of_lt (by omega)]
    omega
  rw [cpuRead_ppuData, cpuRead_ppuData]
  calc s.readPpuData.2.readPpuData.1
    _ = s.ppu.dataRefill s.cart s.params := if_pos hnext
    _ = s.ppu.busRead s.cart s.params (s.ppu.v.setWidth 14) := if_pos (by omega)
    _ = _ := busRead_nametable (by omega) (by omega)

end

/-- Settles O43: the byte goes to the nametable RAM, and the reads find it there. -/
theorem vramReadsBack : Obligations.VramReadsBack := by
  intro s t hi lo d hw hram hextra hlow hhigh ht
  have hfirst : (addressed s hi lo).ppu.v = vramAddress hi lo := rfl
  have haddr := toNat_vramAddress hi lo
  obtain ⟨hw', hread⟩ := cpuWrite_ppuData_nametable (s := addressed s hi lo) (by rw [hfirst]; omega) (by rw [hfirst]; omega) d
  rw [cpuWrite_ppuAddr_twice hw, cpuWrite_ppuAddr_twice hw'] at ht
  have hv : t.ppu.v = vramAddress hi lo := by rw [ht]; rfl
  refine ⟨by rw [hv, haddr], ?_⟩
  rw [cpuRead_ppuData_second (by rw [hv]; omega) (by rw [hv]; omega), hv, ht]
  calc (addressed ((addressed s hi lo).cpuWrite 0x2007 d) hi lo).ppu.ntRead _ _
    _ = _ := hread ((vramAddress hi lo).setWidth 14)
    _ = _ := ntRead_ntWrite (s := (addressed s hi lo).latchPpu d) hram hextra
    _ = d := if_pos ⟨rfl, rfl⟩

end Sys2Proof
end

section
/-! PROOFS. The raster: the position, the vertical blank and the NMI edge of a dot (62_ppu.md R560, R565, R567, R568). -/

namespace Sys2Proof

open Machine Claims

/-- Moving on reads the position, the frame's parity and whether rendering is on; the work of a dot keeps them. -/
theorem nextDot_dotWork (p : Ppu) (c : Cart) (pr : Params) :
    ((p.dotWork c pr).nextDot pr).scanline = (p.nextDot pr).scanline ∧ ((p.dotWork c pr).nextDot pr).dot = (p.nextDot pr).dot ∧
    ((p.dotWork c pr).nextDot pr).oddFrame = (p.nextDot pr).oddFrame := by
  have hrendering : (p.dotWork c pr).rendering = p.rendering := by rw [Ppu.dotWork_frame]; rfl
  have hscanline : (p.dotWork c pr).scanline = p.scanline := by rw [Ppu.dotWork_frame]
  have hdot : (p.dotWork c pr).dot = p.dot := by rw [Ppu.dotWork_frame]
  have hodd : (p.dotWork c pr).oddFrame = p.oddFrame := by rw [Ppu.dotWork_frame]
  simp only [Ppu.nextDot, hrendering, hscanline, hdot, hodd]
  split_ifs <;> exact ⟨rfl, rfl, rfl⟩

section

variable (s : State)

theorem ppuTick_raster :
    s.ppuTick.ppu.scanline = (s.ppu.nextDot s.params).scanline ∧ s.ppuTick.ppu.dot = (s.ppu.nextDot s.params).dot ∧
    s.ppuTick.ppu.oddFrame = (s.ppu.nextDot s.params).oddFrame :=
  nextDot_dotWork s.ppu s.cart s.params

theorem ppuTick_vblank :
    s.ppuTick.ppu.vblank =
      if s.ppu.scanline = 241 ∧ s.ppu.dot = 1 then true
      else if s.ppu.scanline = 261 ∧ s.ppu.dot = 1 then false else s.ppu.vblank := by
  calc s.ppuTick.ppu.vblank
    _ = ((s.ppu.dotWork s.cart s.params).nextDot s.params).vblank := rfl
    _ = s.ppu.flagWork.vblank := by rw [Ppu.nextDot_frame, Ppu.dotWork_frame]
    _ = _ := by unfold Ppu.flagWork; split_ifs <;> rfl

theorem ppuTick_ctrl : s.ppuTick.ppu.ctrl = s.ppu.ctrl := by
  calc s.ppuTick.ppu.ctrl
    _ = ((s.ppu.dotWork s.cart s.params).nextDot s.params).ctrl := rfl
    _ = s.ppu.ctrl := by rw [Ppu.nextDot_frame, Ppu.dotWork_frame]

/-- The latch is set when the level after the dot is high and the output was low. -/
theorem ppuTick_nmiPending : s.ppuTick.nmiPending = (s.nmiPending || (s.ppuTick.ppu.nmiLevel && !s.ppu.nmiOut)) := by
  have hout : ((s.ppu.dotWork s.cart s.params).nextDot s.params).nmiOut = s.ppu.nmiOut := by
    rw [Ppu.nextDot_frame, Ppu.dotWork_frame]
  rw [← hout]
  rfl

end

/-- The dot before a line's end moves on; the last one starts a line or a frame (62_ppu.md R565). -/
theorem nextDot_position {p : Ppu} {pr : Params} (hline : p.scanline < 262) (hdot : p.dot < 341)
    (hskip : ¬ (p.scanline = 261 ∧ p.dot = 339 ∧ p.oddFrame = true ∧ p.rendering = true ∧ pr.oddFrameSkip = true)) :
    dotPos (p.nextDot pr) = (dotPos p + 1) % 89342 ∧
    (p.nextDot pr).oddFrame = if dotPos p = 89341 then !p.oddFrame else p.oddFrame := by
  rw [Ppu.nextDot, if_neg hskip]
  unfold dotPos
  split
  case isTrue lineEnd =>
    split
    case isTrue frameEnd => exact ⟨by dsimp only; omega, by rw [if_pos (by omega)]⟩
    case isFalse line => exact ⟨by dsimp only; omega, by rw [if_neg (by omega)]⟩
  case isFalse dot => exact ⟨by dsimp only; omega, by rw [if_neg (by omega)]⟩

/-- Settles O45: the position is that of `nextDot`, the vertical blank that of `flagWork`, and the latch sees the level rise. -/
theorem dotAdvancesRaster : Obligations.DotAdvancesRaster := by
  intro s hline hdot hout
  obtain ⟨hscanline', hdot', hodd'⟩ := ppuTick_raster s
  have hpos' : dotPos s.ppuTick.ppu = dotPos (s.ppu.nextDot s.params) := by rw [dotPos, hscanline', hdot', dotPos]
  refine ⟨?position, ppuTick_vblank s, ?nmi⟩
  case position =>
    rw [hpos', hodd']
    split
    case isTrue skip => rw [Ppu.nextDot, if_pos skip]; exact ⟨rfl, rfl⟩
    case isFalse hskip => exact nextDot_position hline hdot hskip
  case nmi =>
    rw [ppuTick_nmiPending, Ppu.nmiLevel, ppuTick_vblank, ppuTick_ctrl, hout, Ppu.nmiLevel]
    by_cases hset : s.ppu.scanline = 241 ∧ s.ppu.dot = 1
    case pos => rw [if_pos hset, decide_eq_true hset]; cases s.ppu.vblank <;> simp
    case neg =>
      rw [if_neg hset, decide_eq_false hset]
      split
      · simp
      · cases s.ppu.vblank <;> simp

/-! The first vertical blank. -/

theorem dots_succ (n : Nat) (s : State) : dots (n + 1) s = (dots n s).ppuTick := Function.iterate_succ_apply' _ _ _

/-- From dot 0 of line 0 the position counts the dots, up to the end of the frame. -/
theorem dots_position {s : State} (hline : s.ppu.scanline = 0) (hdot : s.ppu.dot = 0) {n : Nat} (hn : n ≤ 89000) :
    (dots n s).ppu.scanline = n / 341 ∧ (dots n s).ppu.dot = n % 341 := by
  induction n with
  | zero => exact ⟨hline, hdot⟩
  | succ n ih =>
    obtain ⟨ihline, ihdot⟩ := ih (by omega)
    obtain ⟨hscanline', hdot', -⟩ := ppuTick_raster (dots n s)
    have hskip : ¬ (n / 341 = 261) := by omega
    rw [dots_succ, hscanline', hdot', Ppu.nextDot, ihline, ihdot, if_neg (fun h => hskip h.1)]
    split
    case isTrue lineEnd => rw [if_neg (by omega)]; exact ⟨by dsimp only; omega, by dsimp only; omega⟩
    case isFalse dot => exact ⟨by dsimp only; omega, by dsimp only; omega⟩

theorem dots_vblank {s : State} (hline : s.ppu.scanline = 0) (hdot : s.ppu.dot = 0) {n : Nat} (hn : n ≤ 82182) :
    (dots n s).ppu.vblank = s.ppu.vblank := by
  induction n with
  | zero => rfl
  | succ n ih =>
    obtain ⟨hline', hdot'⟩ := dots_position hline hdot (n := n) (by omega)
    rw [dots_succ, ppuTick_vblank, hline', hdot', if_neg (by omega), if_neg (by omega), ih (by omega)]

/-- Settles O47: dot 82182 is dot 1 of scanline 241. -/
theorem firstVblankDot : Obligations.FirstVblankDot := by
  intro s hline hdot
  obtain ⟨hline', hdot'⟩ := dots_position hline hdot (n := 82182) (by decide)
  have hlast := dots_position hline hdot (n := 82183) (by decide)
  refine ⟨fun n hn => dots_vblank hline hdot hn, ?_, hlast⟩
  rw [show 82183 = 82182 + 1 from rfl, dots_succ, ppuTick_vblank, hline', hdot']
  rfl

end Sys2Proof
end

section
/-! PROOFS. Sprite evaluation (62_ppu.md R591 to R593). -/

namespace Sys2Proof

open Machine Claims

variable (p : Ppu) (c : Cart) (pr : Params)

theorem spriteMatches_eq (line : Nat) :
    p.spriteMatches line =
      (List.range 64).filter (fun n => decide ((Memory.read p.oam (4 * n)).toNat ≤ line ∧
        line < (Memory.read p.oam (4 * n)).toNat + if p.ctrl.getLsbD 5 then 16 else 8)) := by
  refine List.filter_congr fun n _ => ?_
  rw [Ppu.spriteInRange, ← Bool.decide_and]
  exact decide_eq_decide.mpr (and_congr_right fun h => Nat.sub_lt_iff_lt_add' h)

theorem length_flatMap_oamEntry (l : List Nat) : (l.flatMap p.oamEntry).length = 4 * l.length := by
  induction l with
  | nil => rfl
  | cons n l ih => rw [List.flatMap_cons, List.length_append, ih, List.length_cons]; exact Nat.add_comm _ _

/-- The bytes of the selected entries stand four by four. -/
theorem getD_flatMap_oamEntry {k : Nat} (hk : k < 4) {l : List Nat} {i : Nat} (hi : i < l.length) :
    (l.flatMap p.oamEntry).getD (4 * i + k) 0 = Memory.read p.oam (4 * l.getD i 0 + k) := by
  induction l generalizing i with
  | nil => exact absurd hi (Nat.not_lt_zero i)
  | cons n l ih =>
    have hlen : (p.oamEntry n).length = 4 := rfl
    rw [List.flatMap_cons]
    cases i with
    | zero =>
      rw [List.getD_append _ _ _ _ (by omega), List.getD_cons_zero, Ppu.oamEntry]
      interval_cases k <;> rfl
    | succ i =>
      rw [List.getD_append_right _ _ _ _ (by omega), List.getD_cons_succ, ← ih (Nat.lt_of_succ_lt_succ hi), hlen]
      congr 1
      omega

/-- The entries that sprite evaluation takes for the line after the current one. -/
def takenSprites : List Nat := (p.spriteMatches p.scanline).take 8

theorem evalSprites_sprCount : (p.evalSprites c pr).sprCount = (takenSprites p).length := rfl

/-- Secondary OAM holds the bytes of the taken entries, then 0xFF. -/
theorem read_evalSprites_secOam (j : Nat) :
    Memory.read (p.evalSprites c pr).secOam j =
      ((takenSprites p).flatMap p.oamEntry ++
        List.replicate (32 - ((takenSprites p).flatMap p.oamEntry).length) (0xFF : Byte)).getD j 0 := by
  conv_lhs => rw [← Nat.zero_add j]
  exact Memory.read_ofList 0 j _

theorem evalSprites_secOam_taken {i k : Nat} (hi : i < (takenSprites p).length) (hk : k < 4) :
    Memory.read (p.evalSprites c pr).secOam (4 * i + k) = Memory.read p.oam (4 * (takenSprites p).getD i 0 + k) := by
  have hlen := length_flatMap_oamEntry p (takenSprites p)
  rw [read_evalSprites_secOam, List.getD_append _ _ _ _ (by omega), getD_flatMap_oamEntry p hk hi]

theorem evalSprites_secOam_rest {j : Nat} (hj : 4 * (takenSprites p).length ≤ j) (hj' : j < 32) :
    Memory.read (p.evalSprites c pr).secOam j = 0xFF := by
  rw [read_evalSprites_secOam, length_flatMap_oamEntry,
    List.getD_append_right _ _ _ _ (by rw [length_flatMap_oamEntry]; exact hj), length_flatMap_oamEntry,
    List.getD_replicate _ (by omega)]

theorem getD_mapIdx_append {α β : Type} {f : Nat → α → β} {l : List α} {rest : List β} {i : Nat} (hi : i < l.length)
    {a : α} {b : β} : (l.mapIdx f ++ rest).getD i b = f i (l.getD i a) := by
  have hi' : i < (l.mapIdx f).length := by rw [List.length_mapIdx]; exact hi
  rw [List.getD_append _ _ _ _ hi', List.getD_eq_getElem _ _ hi', List.getElem_mapIdx, List.getD_eq_getElem _ _ hi]

theorem evalSprites_sprites_zero {i : Nat} (hi : i < (takenSprites p).length) :
    ((p.evalSprites c pr).sprites.getD i SpriteUnit.powerOn).zero = decide ((takenSprites p).getD i 0 = 0) := by
  exact congrArg SpriteUnit.zero (getD_mapIdx_append hi)

theorem getD_take {l : List Nat} {i n : Nat} (hi : i < n) : (l.take n).getD i 0 = l.getD i 0 := by
  rw [List.getD_eq_getElem?_getD, List.getElem?_take_of_lt hi, ← List.getD_eq_getElem?_getD]

/-- Settles O49: the taken entries are the first eight of `found`. -/
theorem spriteEvaluationTakesEight : Obligations.SpriteEvaluationTakesEight := by
  intro p c pr found q hfound hq
  have hmatches : p.spriteMatches p.scanline = found := (spriteMatches_eq p p.scanline).trans hfound.symm
  have htaken : takenSprites p = found.take 8 := by rw [takenSprites, hmatches]
  have hcount : q.sprCount = (takenSprites p).length := by rw [hq, evalSprites_sprCount]
  have hmin : (takenSprites p).length = min 8 found.length := by rw [htaken, List.length_take]
  have hget {i : Nat} (hi : i < q.sprCount) : (takenSprites p).getD i 0 = found.getD i 0 := by
    rw [htaken]; exact getD_take (by omega)
  refine ⟨hcount.trans hmin, ?overflow, ?taken, ?rest, ?zero, ?frame⟩
  case overflow => rw [hq, ← hmatches]; rfl
  case taken => intro i k hi hk; rw [hq, evalSprites_secOam_taken p c pr (hcount ▸ hi) hk, hget hi]
  case rest => intro j hj hj'; rw [hq, evalSprites_secOam_rest p c pr (hcount ▸ hj) hj']
  case zero => intro i hi; rw [hq, evalSprites_sprites_zero p c pr (hcount ▸ hi), hget hi]
  case frame => rw [hq]; rfl

end Sys2Proof
end

section
/-! PROOFS. The APU: the length counters (63_apu.md R640, R641, R645), the triangle's sequence (R625, R660, R662), the frame
sequencer (R680, R683) and the sweep (R651). -/

namespace Sys2Proof

open Machine Claims

/-! Length counters. -/

theorem lenOf_eq (d : Byte) : lenOf d = lenTable.getD (d.toNat / 8) 0 := by
  have hindex : (d.extractLsb' 3 5).toNat = d.toNat / 8 := by
    have := d.isLt
    rw [BitVec.extractLsb'_toNat, Nat.shiftRight_eq_div_pow]
    omega
  rw [lenOf, hindex]

theorem apuStatus_bits (u : Apu) (open5 : Bool) :
    (u.status open5).getLsbD 0 = decide (u.pulse1.len ≠ 0) ∧ (u.status open5).getLsbD 1 = decide (u.pulse2.len ≠ 0) ∧
    (u.status open5).getLsbD 2 = decide (u.triangle.len ≠ 0) ∧ (u.status open5).getLsbD 3 = decide (u.noise.len ≠ 0) ∧
    (u.status open5).getLsbD 4 = decide (u.dmc.remaining ≠ 0) ∧
    (u.status open5).getLsbD 6 = u.frameIrq ∧ (u.status open5).getLsbD 7 = u.dmc.irq := by
  simp only [Apu.status, BitVec.getLsbD_append, BitVec.getLsbD_ofBool]
  simp [bne, beq_eq_decide]

/-- Settles O50: each register's write is one of `writeLen` and `writeEnable`, the status register's bits those of R641. -/
theorem lengthCountersLoadAndEmpty : Obligations.LengthCountersLoadAndEmpty := by
  intro s d
  rw [← lenOf_eq]
  obtain ⟨h0, h1, h2, h3, h4, h6, h7⟩ := apuStatus_bits s.apu ((openBus s.params 0x4015).getLsbD 5)
  exact ⟨rfl, rfl, rfl, rfl, rfl, rfl, rfl, rfl, h0, h1, h2, h3, h4, h6, h7, rfl⟩

/-! The triangle. -/

section

variable {u : Triangle}

theorem triangle_tick_countdown {j : Nat} (hj : u.timer.toNat = j) : Triangle.tick^[j] u = { u with timer := 0 } := by
  induction j generalizing u with
  | zero =>
    have htimer : u.timer = 0 := BitVec.eq_of_toNat_eq hj
    rw [← htimer]; rfl
  | succ j ih =>
    have htimer : u.timer ≠ 0 := fun h => by rw [h] at hj; exact absurd hj (Nat.succ_ne_zero j).symm
    have hnext : (u.timer - 1).toNat = j := by bv_omega
    rw [Function.iterate_succ_apply, Triangle.tick, if_neg htimer]
    exact ih hnext

/-- One step of the sequence takes `period + 1` cycles. -/
theorem triangle_step (hlen : u.len ≠ 0) (hlin : u.lin ≠ 0) (htimer : u.timer = 0) :
    Triangle.tick^[u.period.toNat + 1] u = { u with seq := u.seq + 1 } := by
  rw [Function.iterate_succ_apply, Triangle.tick, if_pos htimer, if_pos ⟨hlen, hlin⟩]
  rw [triangle_tick_countdown (u := { u with timer := u.period, seq := u.seq + 1 }) rfl, htimer]

theorem triangle_steps (hlen : u.len ≠ 0) (hlin : u.lin ≠ 0) (htimer : u.timer = 0) (hseq : u.seq = 0) (k : Nat) :
    Triangle.tick^[k * (u.period.toNat + 1)] u = { u with seq := BitVec.ofNat 5 k } := by
  induction k with
  | zero => rw [Nat.zero_mul, show BitVec.ofNat 5 0 = u.seq from hseq.symm]; rfl
  | succ k ih =>
    rw [Nat.succ_mul, Nat.add_comm, Function.iterate_add_apply, ih, BitVec.ofNat_add]
    exact triangle_step (u := { u with seq := BitVec.ofNat 5 k }) hlen hlin htimer

/-- Settles O51: after `k` steps the sequence is at entry `k` modulo 32. -/
theorem triangleRunsSequence : Obligations.TriangleRunsSequence := by
  intro u k hlen hlin htimer hseq
  have htoNat : (BitVec.ofNat 5 k).toNat = k % 32 := BitVec.toNat_ofNat k 5
  have hlt : k % 32 < 32 := Nat.mod_lt k (by decide)
  rw [triangle_steps hlen hlin htimer hseq, Triangle.out, if_neg hlen, triAt, htoNat]
  generalize k % 32 = e at hlt ⊢
  interval_cases e <;> rfl

end

/-! The frame sequencer. -/

theorem raiseFrameIrq_fcCycle (u : Apu) : u.raiseFrameIrq.fcCycle = u.fcCycle := by
  unfold Apu.raiseFrameIrq; split <;> rfl

theorem raiseFrameIrq_frameIrq (u : Apu) : u.raiseFrameIrq.frameIrq = (u.frameIrq || !u.fcInhibit) := by
  unfold Apu.raiseFrameIrq; cases u.fcInhibit <;> simp

/-- The cycle of the sequence after a tick. -/
theorem sequencerTick_fcCycle (u : Apu) :
    u.sequencerTick.fcCycle =
      if u.fcMode = false ∧ u.fcCycle + 1 = 29830 ∨ u.fcMode = true ∧ u.fcCycle + 1 = 37282 then 0 else u.fcCycle + 1 := by
  unfold Apu.sequencerTick
  dsimp only
  split_ifs <;> simp_all [raiseFrameIrq_fcCycle, Apu.quarterFrame, Apu.halfFrame]

theorem sequencerTick_frameIrq (u : Apu) :
    u.sequencerTick.frameIrq = (u.frameIrq || decide (u.fcMode = false ∧ u.fcCycle + 1 = 29829 ∧ u.fcInhibit = false)) := by
  unfold Apu.sequencerTick
  dsimp only
  split_ifs <;> simp_all [raiseFrameIrq_frameIrq, Apu.quarterFrame, Apu.halfFrame]

/-- Settles O52: the cycle counts up, and starts again where its mode's sequence ends. -/
theorem frameSequencerPeriods : Obligations.FrameSequencerPeriods := by
  intro u
  refine ⟨fun hmode hlt => ?four, fun hmode hlt => ?five, sequencerTick_frameIrq u⟩
  case four =>
    simp only [sequencerTick_fcCycle, hmode, true_and, Bool.false_eq_true, false_and, or_false]
    split <;> omega
  case five =>
    simp only [sequencerTick_fcCycle, hmode, true_and, Bool.true_eq_false, false_and, false_or]
    split <;> omega

/-! The sweep. -/

section

variable (u : Pulse) (first : Bool)

theorem target_eq :
    u.target first =
      if u.sweep.neg = false then (u.period.toNat : Int) + (u.period.toNat / 2 ^ u.sweep.shift.toNat : Nat)
      else if first then (u.period.toNat : Int) - (u.period.toNat / 2 ^ u.sweep.shift.toNat : Nat) - 1
      else (u.period.toNat : Int) - (u.period.toNat / 2 ^ u.sweep.shift.toNat : Nat) := by
  simp only [Pulse.target, BitVec.toNat_ushiftRight, Nat.shiftRight_eq_div_pow]

/-- A shift of at least 1 takes away at most half of the period, so the target is not negative. -/
theorem target_nonneg (hshift : u.sweep.shift ≠ 0) (hperiod : 8 ≤ u.period.toNat) : 0 ≤ u.target first := by
  have hpos : u.sweep.shift.toNat ≠ 0 := fun h => hshift (BitVec.eq_of_toNat_eq h)
  have hhalf : u.period.toNat / 2 ^ u.sweep.shift.toNat ≤ u.period.toNat / 2 :=
    Nat.div_le_div_left (Nat.le_self_pow hpos 2) (by decide)
  rw [target_eq]
  generalize u.period.toNat / 2 ^ u.sweep.shift.toNat = change at hhalf ⊢
  split_ifs <;> omega

theorem muted_eq_false : u.muted first = false ↔ 8 ≤ u.period.toNat ∧ u.target first ≤ 0x7FF := by
  simp [Pulse.muted]

theorem sweep_target_toNat (hshift : u.sweep.shift ≠ 0) (hperiod : 8 ≤ u.period.toNat) (htarget : u.target first ≤ 0x7FF) :
    ((BitVec.ofInt 11 (u.target first)).toNat : Int) = u.target first := by
  have hnonneg := target_nonneg u first hshift hperiod
  rw [BitVec.toNat_ofInt]
  omega

end

/-- Settles O53: the target of an unmuted channel fits the period register. -/
theorem sweepNeverWraps : Obligations.SweepNeverWraps := by
  rintro u v first period change target rfl rfl htarget rfl
  rw [← target_eq u first] at htarget
  subst htarget
  refine ⟨?period, rfl, rfl⟩
  by_cases hsweep : u.sweep.div = 0 ∧ u.sweep.en = true ∧ u.sweep.shift ≠ 0 ∧ u.muted first = false
  case pos =>
    obtain ⟨hdiv, hen, hshift, hmuted⟩ := hsweep
    obtain ⟨hperiod, hle⟩ := (muted_eq_false u first).mp hmuted
    rw [if_pos ⟨hdiv, hen, hshift, by exact_mod_cast hperiod, hle⟩]
    refine Eq.trans ?_ (sweep_target_toNat u first hshift hperiod hle)
    simp only [Pulse.clockSweep, if_pos (And.intro hdiv (And.intro hen (And.intro hshift hmuted)))]
  case neg =>
    have hneg : ¬ (u.sweep.div = 0 ∧ u.sweep.en = true ∧ u.sweep.shift ≠ 0 ∧ 8 ≤ (u.period.toNat : Int) ∧
        u.target first ≤ 0x7FF) := by
      rintro ⟨hdiv, hen, hshift, hperiod, hle⟩
      exact hsweep ⟨hdiv, hen, hshift, (muted_eq_false u first).mpr ⟨by exact_mod_cast hperiod, hle⟩⟩
    rw [if_neg hneg]
    exact if_neg hsweep

end Sys2Proof
end

section
/-! PROOFS. Power-on and reset (10_state.md R50, R51, 70_reset_and_hazards.md R740 to R746). -/

namespace Sys2Proof

open Machine Claims

theorem powerOn_prgRom (c : Cart) (d : CartDraws) : (c.powerOn d).prgRom = c.prgRom := by
  unfold Cart.powerOn; split <;> rfl

/-- Settles O54: the reset vector is read from the cartridge, which changes nothing. -/
theorem powerOnValues : Obligations.PowerOnValues := by
  intro s d
  have hread (t : State) : t.read16 0xFFFC = (vectorAt t 0xFFFC, t) := State.read16_cart t (by decide) (by decide)
  refine ⟨_, rfl, ?_⟩
  unfold State.powerOn
  simp only [hread]
  exact ⟨rfl, rfl, rfl, rfl, rfl, rfl, rfl, rfl, rfl, rfl, rfl, rfl, powerOn_prgRom s.cart d.cart⟩

/-! Dots change the PPU and the NMI latch, and read the PPU, the cartridge and the parameters. -/

theorem dots_frame (n : Nat) (s : State) : dots n s = { s with nmiPending := (dots n s).nmiPending, ppu := (dots n s).ppu } := by
  induction n with
  | zero => rfl
  | succ n ih => rw [dots_succ, State.ppuTick_frame]; rw [ih]

theorem dots_ppu_congr {s t : State} (hppu : s.ppu = t.ppu) (hcart : s.cart = t.cart) (hparams : s.params = t.params) (n : Nat) :
    (dots n s).ppu = (dots n t).ppu := by
  induction n with
  | zero => exact hppu
  | succ n ih =>
    have hcart' : (dots n s).cart = (dots n t).cart := by rw [dots_frame n s, dots_frame n t]; exact hcart
    have hparams' : (dots n s).params = (dots n t).params := by rw [dots_frame n s, dots_frame n t]; exact hparams
    rw [dots_succ, dots_succ]
    simp only [State.ppuTick, State.nmiEval, ih, hcart', hparams']

/-- With the enable clear no dot raises an NMI. -/
theorem dots_nmiPending {s : State} (hctrl : s.ppu.ctrl = 0) (n : Nat) :
    (dots n s).nmiPending = s.nmiPending ∧ (dots n s).ppu.ctrl = 0 := by
  induction n with
  | zero => exact ⟨rfl, hctrl⟩
  | succ n ih =>
    obtain ⟨ihnmi, ihctrl⟩ := ih
    have hctrl' : (dots n s).ppuTick.ppu.ctrl = 0 := (ppuTick_ctrl _).trans ihctrl
    have hlevel : (dots n s).ppuTick.ppu.nmiLevel = false := by rw [Ppu.nmiLevel, hctrl']; exact Bool.and_false _
    rw [dots_succ, ppuTick_nmiPending, hlevel, Bool.false_and, Bool.or_false]
    exact ⟨ihnmi, hctrl'⟩

theorem dots_withApu (n : Nat) (s : State) (u : Apu) : dots n { s with apu := u } = { dots n s with apu := u } := by
  induction n with
  | zero => rfl
  | succ n ih => rw [dots_succ, dots_succ, ih]; rfl

/-! The catch-up with no sample byte left. -/

section

variable {s : State}

/-- With no byte left a cycle is three dots and a tick of the APU, and no byte is left after it. -/
theorem deviceCycle_silent (h : s.apu.dmc.remaining = 0) :
    ∃ u : Apu, u.dmc.remaining = 0 ∧ s.deviceCycle = { dots 3 s with apu := u } := by
  have hremaining : (s.apu.dmc.tick s.params.dmcLimit).remaining = 0 := by rw [Dmc.tick_frame]; exact h
  have hwants : (s.apu.tickUnits s.params).dmc.wantsByte = false := by
    rw [Apu.tickUnits_dmc, Dmc.wantsByte, hremaining]; exact Bool.and_false _
  refine ⟨(s.apu.tickUnits s.params).tickEnd s.params, ?_, ?_⟩
  · simpa [Apu.tickEnd, Apu.sampleTick] using hremaining
  · have hreader : ({ dots 3 s with apu := s.apu.tickUnits s.params } : State).dmcReader =
        { dots 3 s with apu := s.apu.tickUnits s.params } := if_neg (by rw [hwants]; decide)
    calc s.deviceCycle
      _ = (dots 3 s).apuTick := rfl
      _ = _ := congrArg (fun v : State => { v with apu := v.apu.tickEnd v.params }) hreader

theorem deviceCycles_silent (h : s.apu.dmc.remaining = 0) (n : Nat) :
    ∃ u : Apu, u.dmc.remaining = 0 ∧ State.deviceCycle^[n] s = { dots (3 * n) s with apu := u } := by
  induction n with
  | zero => exact ⟨s.apu, h, rfl⟩
  | succ n ih =>
    obtain ⟨u, hu, hcycles⟩ := ih
    obtain ⟨v, hv, hcycle⟩ := deviceCycle_silent (s := { dots (3 * n) s with apu := u }) hu
    refine ⟨v, hv, ?_⟩
    have hdots : dots 3 (dots (3 * n) s) = dots (3 * (n + 1)) s := by
      rw [Nat.mul_succ, Nat.add_comm]; exact (Function.iterate_add_apply _ _ _ _).symm
    rw [Function.iterate_succ_apply', hcycles, hcycle, dots_withApu, hdots]

/-- With no byte left the loop runs exactly as many cycles as the cost has left. -/
theorem catchUpLoop_silent (h : s.apu.dmc.remaining = 0) {n k : Nat} (hcost : s.cost = k + n) (fuel : Nat) :
    State.catchUpLoop (n + fuel) k s = some (State.deviceCycle^[n] s) := by
  induction n generalizing s k with
  | zero => rw [Nat.zero_add]; cases fuel <;> exact if_neg (by omega)
  | succ n ih =>
    obtain ⟨u, hu, hcycle⟩ := deviceCycle_silent h
    have hcost' : s.deviceCycle.cost = s.cost := by rw [hcycle, dots_frame]
    rw [Nat.add_right_comm, State.catchUpLoop, if_pos (by omega), Function.iterate_succ_apply]
    exact ih (by rw [hcycle]; exact hu) (by omega)

theorem catchUp_silent (h : s.apu.dmc.remaining = 0) :
    s.catchUp = .next { State.deviceCycle^[s.cost] s with
      cycles := (State.deviceCycle^[s.cost] s).cycles + (State.deviceCycle^[s.cost] s).cost } := by
  have hfuel : s.catchUpFuel = s.cost + (s.catchUpFuel - s.cost) := by unfold State.catchUpFuel; omega
  rw [State.catchUp, hfuel, catchUpLoop_silent h (Nat.zero_add _).symm]

end

/-! The reset. -/

theorem writeFrameCounter_dmc (u : Apu) (d : Byte) : (u.writeFrameCounter d).dmc = u.dmc := by
  simp only [Apu.writeFrameCounter]
  split <;> rfl

theorem apuResetSignal_remaining (u : Apu) : u.resetSignal.dmc.remaining = 0 := by
  simp only [Apu.resetSignal, writeFrameCounter_dmc]
  rfl

/-- The machine after the resets, before the catch-up. -/
def resetDone (s : State) : State :=
  { s with
    pc := vectorAt s 0xFFFC, p := setBit s.p 2 true ||| 0x20, sp := s.sp - 3, nmiPending := false
    ppu := s.ppu.resetSignal, apu := s.apu.resetSignal, cost := 7 }

theorem resetSignal_eq {s : State} (hmode : s.sched.mode ≠ .stopped) : s.resetSignal = (resetDone s).catchUp := by
  have hread : s.read16 0xFFFC = (vectorAt s 0xFFFC, s) := State.read16_cart s (by decide) (by decide)
  rw [State.resetSignal, if_neg hmode, State.cpuReset, hread]
  rfl

/-- The status after a reset: I and bit 5 are set, the other bits stay. -/
theorem getLsbD_resetStatus (p : Byte) {j : Nat} (hj : j < 8) :
    (setBit p 2 true ||| 0x20).getLsbD j = if j = 2 ∨ j = 5 then true else p.getLsbD j := by
  rw [BitVec.getLsbD_or, getLsbD_setBit _ hj]
  interval_cases j <;> simp

/-- Settles O55: after the resets no sample byte is left and the NMI enable is 0, so the 7 cycles are 21 plain dots. -/
theorem resetSignalValues : Obligations.ResetSignalValues := by
  intro s hmode
  obtain ⟨u, -, hcycles⟩ := deviceCycles_silent (s := resetDone s) (apuResetSignal_remaining s.apu) 7
  have hcatch : s.resetSignal = .next { dots 21 (resetDone s) with
      apu := u, cycles := (dots 21 (resetDone s)).cycles + (dots 21 (resetDone s)).cost } := by
    rw [resetSignal_eq hmode, catchUp_silent (apuResetSignal_remaining s.apu)]
    exact congrArg (fun v : State => (.next { v with cycles := v.cycles + v.cost } : Result)) hcycles
  have hnmi : (dots 21 (resetDone s)).nmiPending = false := (dots_nmiPending (s := resetDone s) rfl 21).1
  have hppu : (dots 21 (resetDone s)).ppu = (dots 21 { s with ppu := s.ppu.resetSignal }).ppu := dots_ppu_congr rfl rfl rfl 21
  rw [dots_frame 21 (resetDone s), hnmi, hppu] at hcatch
  refine ⟨_, hcatch, rfl, ?i, ?five, ?keeps, rfl, rfl, rfl, rfl, rfl, rfl, rfl, rfl, rfl, rfl, rfl⟩
  case i => exact getLsbD_resetStatus s.p (by decide)
  case five => exact getLsbD_resetStatus s.p (by decide)
  case keeps =>
    intro j hj hwritten
    refine (getLsbD_resetStatus s.p hj).trans (if_neg ?_)
    simpa only [List.mem_cons, List.not_mem_nil, or_false] using hwritten

end Sys2Proof
end

section
/-! PROOFS. The lag bound of `advance` (64_scheduler.md R711, R713). -/

namespace Sys2Proof

open Machine Claims

section

variable {K : Type} [Field K] [LinearOrder K] {p : Pacing K} {acc dt : K} {s : State}

/-- The accumulator is within one frame period, from PACE_TOLERANCE periods early on. -/
def LagOk (p : Pacing K) (acc : K) : Prop :=
  -(p.paceTolerance * p.framePeriod) ≤ acc ∧ acc < (1 - p.paceTolerance) * p.framePeriod

theorem advanceWith_stalled (hmode : s.sched.mode = .running) (hstall : acc + dt > p.stallThreshold) :
    advanceWith p acc dt s =
      { acc := 0, frames := { state := { s with sched := { s.sched with mode := .paused } }, outputs := [], stop := none } } := by
  rw [advanceWith, if_neg (not_not_intro hmode), if_pos hstall]

theorem advanceWith_running (hmode : s.sched.mode = .running) (hstall : ¬ acc + dt > p.stallThreshold) :
    advanceWith p acc dt s =
      if p.dropDue (acc + dt) then catchUpFrames p (acc + dt - p.framePeriod) s.countDrop else catchUpFrames p (acc + dt) s := by
  rw [advanceWith, if_neg (not_not_intro hmode), if_neg hstall]

variable [IsStrictOrderedRing K]

/-- A loop that has at most `n` frames due ends, and within the lag bound unless a frame stops it. -/
theorem frameLoop_ends_of_lt {n : Nat}
    (hn : acc < (1 - p.paceTolerance) * p.framePeriod + n * p.framePeriod) (outputs : List FrameOutput) (s : State) :
    ∃ q, frameLoop p acc outputs s = some q ∧
      (-(p.paceTolerance * p.framePeriod) ≤ acc → q.frames.stop = none → LagOk p q.acc) := by
  induction n generalizing acc outputs s with
  | zero =>
    have hidle : acc < (1 - p.paceTolerance) * p.framePeriod := by simpa using hn
    exact ⟨_, frameLoop_idle (not_le.mpr hidle), fun hlow _ => ⟨hlow, hidle⟩⟩
  | succ n ih =>
    by_cases hdue : acc ≥ (1 - p.paceTolerance) * p.framePeriod
    case neg => exact ⟨_, frameLoop_idle hdue, fun hlow _ => ⟨hlow, not_le.mp hdue⟩⟩
    case pos =>
      rw [frameLoop.eq_1, if_pos hdue]
      cases (runFrame s).stop with
      | some w => exact ⟨_, rfl, fun _ hstop => nomatch hstop⟩
      | none =>
        have hnext : acc - p.framePeriod < (1 - p.paceTolerance) * p.framePeriod + n * p.framePeriod := by
          push_cast at hn
          linarith
        obtain ⟨q, hq, hlag⟩ := ih hnext (outputs ++ (runFrame s).outputs) (runFrame s).state
        exact ⟨q, hq, fun _ hstop => hlag (by linarith) hstop⟩

variable [Archimedean K]

theorem frameLoop_ends (hperiod : 0 < p.framePeriod) (acc : K) (outputs : List FrameOutput) (s : State) :
    ∃ q, frameLoop p acc outputs s = some q ∧
      (-(p.paceTolerance * p.framePeriod) ≤ acc → q.frames.stop = none → LagOk p q.acc) := by
  obtain ⟨n, hn⟩ := Archimedean.arch (acc - (1 - p.paceTolerance) * p.framePeriod + p.framePeriod) hperiod
  rw [nsmul_eq_mul] at hn
  exact frameLoop_ends_of_lt (n := n) (by linarith) outputs s

theorem catchUpFrames_lag (hperiod : 0 < p.framePeriod) (hlow : -(p.paceTolerance * p.framePeriod) ≤ acc)
    (hstop : (catchUpFrames p acc s).frames.stop = none) : LagOk p (catchUpFrames p acc s).acc := by
  obtain ⟨q, hq, hlag⟩ := frameLoop_ends hperiod acc [] s
  have hresult : catchUpFrames p acc s = q := by rw [catchUpFrames, hq]
  rw [hresult] at hstop ⊢
  exact hlag hlow hstop

/-- A machine that is still running has not stalled; a drop leaves at least the tolerance. -/
theorem advanceWith_lag (hmode : s.sched.mode = .running) (hdt : 0 ≤ dt) (hperiod : 0 < p.framePeriod)
    (hdrop : 1 - p.paceTolerance ≤ p.dropThreshold) (hlow : -(p.paceTolerance * p.framePeriod) ≤ acc)
    (hstop : (advanceWith p acc dt s).frames.stop = none)
    (hrunning : (advanceWith p acc dt s).frames.state.sched.mode = .running) : LagOk p (advanceWith p acc dt s).acc := by
  by_cases hstall : acc + dt > p.stallThreshold
  case pos => rw [advanceWith_stalled hmode hstall] at hrunning; exact nomatch hrunning
  case neg =>
    rw [advanceWith_running hmode hstall] at hstop ⊢
    by_cases hdue : p.dropDue (acc + dt) = true
    case pos =>
      rw [if_pos hdue] at hstop ⊢
      have hge : acc + dt ≥ p.dropThreshold * p.framePeriod := of_decide_eq_true hdue
      have hmul : (1 - p.paceTolerance) * p.framePeriod ≤ p.dropThreshold * p.framePeriod :=
        mul_le_mul_of_nonneg_right hdrop hperiod.le
      exact catchUpFrames_lag hperiod (by linarith) hstop
    case neg =>
      rw [if_neg hdue] at hstop ⊢
      exact catchUpFrames_lag hperiod (by linarith) hstop

end

/-- Settles O57: each turn of the loop takes one period off the accumulator. -/
theorem advanceLagBound : Obligations.AdvanceLagBound := by
  refine ⟨fun K _ _ _ _ p acc dt s r hr hmode => ⟨?stall, ?lag, ?ends⟩, fun dt s => ⟨rfl, rfl, rfl⟩⟩
  case stall =>
    intro hstall
    rw [← hr, advanceWith_stalled hmode hstall]
    exact ⟨rfl, rfl, rfl⟩
  case lag =>
    subst hr
    exact fun hdt hperiod _ hdrop hlow hstop hrunning => advanceWith_lag hmode hdt hperiod hdrop hlow hstop hrunning
  case ends =>
    intro hperiod outputs u
    obtain ⟨q, hq, -⟩ := frameLoop_ends hperiod acc outputs u
    exact ⟨q, hq⟩

end Sys2Proof
end

section
/-! PROOFS. `run` counts cycles (64_scheduler.md R700). -/

namespace Sys2Proof

open Machine Claims

variable {s t u : State}

/-! The cost of a step under the default CYCLES. -/

/-- Every assigned opcode costs at least 2 cycles (70_reset_and_hazards.md R770). -/
theorem two_le_defaultCycleRow (op : Byte) : 2 ≤ (defaultCycleRow op).base ∨ op.toNat ∈ unassignedBytes := by
  revert op; decide

theorem fetch_eq_complete (s : State) : ∃ op lo hi, s.fetch.1 = (opcodeFormat op).complete lo hi := by
  unfold State.fetch
  dsimp only
  split <;> exact ⟨_, _, _, rfl⟩

/-- An unassigned opcode is no row of the table that runs. -/
theorem exec_complete_unassigned {op : Byte} (h : op.toNat ∈ unassignedBytes) (lo hi : Byte) (s t : State) :
    exec ((opcodeFormat op).complete lo hi) s ≠ .next t := by
  rw [opcodeFormat_of_mem_unassignedBytes h]
  exact fun h => nomatch h

theorem runInstr_cost (hcycles : s.params.cycleOverrides = []) (h : s.runInstr = .next u) : 2 ≤ u.cost := by
  obtain ⟨op, lo, hi, hrow⟩ := fetch_eq_complete s
  have hparams : s.fetch.2.params = s.params :=
    Kept.fetch (P := fun u : State => u.params = s.params)
      { cpu := fun _ _ _ _ _ _ _ _ _ _ h => h
        read := fun u w h => by simpa using h
        write := fun u w d h => by rw [State.cpuWrite_frame]; exact h } rfl
  rw [State.runInstr, hrow] at h
  have hbase : (s.fetch.2.chargeBase ((opcodeFormat op).complete lo hi)).cost = (defaultCycleRow op).base := by
    rw [State.chargeBase_cost, instrCycles, opcode_complete_opcodeFormat, hparams]
    simp only [cycleRow, hcycles, List.lookup_nil, Option.getD_none]
  have hcost := exec_cost h
  obtain hassigned | hun := two_le_defaultCycleRow op
  · omega
  · exact absurd h (exec_complete_unassigned hun lo hi _ u)

theorem cpuPart_cost (hcycles : s.params.cycleOverrides = []) (h : s.cpuPart = .next u) : 2 ≤ u.cost := by
  unfold State.cpuPart at h
  split at h
  · cases h; exact (by decide : 2 ≤ 7)
  · cases h; exact (by decide : 2 ≤ 7)
  · exact runInstr_cost hcycles h

/-- The catch-up takes no cost back. -/
theorem catchUpLoop_cost {fuel k : Nat} (h : State.catchUpLoop fuel k s = some t) : s.cost ≤ t.cost := by
  induction fuel generalizing k s with
  | zero =>
    unfold State.catchUpLoop at h
    split at h <;> cases h
    exact le_rfl
  | succ fuel ih =>
    unfold State.catchUpLoop at h
    split at h
    · obtain ⟨-, -, -, -, hcost⟩ := State.deviceCycle_keeps s
      exact hcost.trans (ih h)
    · cases h; exact le_rfl

theorem catchUp_cost (h : s.catchUp = .next t) : s.cost ≤ t.cost := by
  unfold State.catchUp at h
  split at h
  · cases h
  · next v hloop => cases h; exact (catchUpLoop_cost hloop : s.cost ≤ v.cost)

theorem step_cost (hcycles : s.params.cycleOverrides = []) (h : step s = .next t) : 2 ≤ t.cost := by
  unfold step at h
  split at h
  · cases h
  split at h
  · unfold thenCatchUp at h
    split at h
    · next hpart => exact (cpuPart_cost hcycles hpart).trans (catchUp_cost h)
    · cases h
    · cases h
  · cases h

/-! The loop. -/

theorem runSteps_of_not_pos {n : Nat} (h : ¬ s.sched.carry > 0) : runSteps n s = some { state := s, stop := none } := by
  cases n <;> exact if_neg h

theorem runSteps_succ_of_next {n : Nat} (hcarry : s.sched.carry > 0) (h : step s = .next t) :
    runSteps (n + 1) s = runSteps n (t.setCarry (t.sched.carry - t.cost)) := by
  rw [runSteps, if_pos hcarry, h]

/-- The loop of `run` is the limit of the bounded loops. -/
theorem runLoop_eq_some_iff (s : State) (r : RunResult) : runLoop s = some r ↔ ∃ n, runSteps n s = some r := by
  refine ⟨runLoop.partial_correctness (fun s r => ∃ n, runSteps n s = some r) ?_ s r, fun ⟨n, hn⟩ => runLoop_of_runSteps hn⟩
  intro loop ih s r h
  split at h
  case isTrue hcarry =>
    split at h
    · next t hstep =>
      obtain ⟨n, hn⟩ := ih _ _ h
      exact ⟨n + 1, (runSteps_succ_of_next hcarry hstep).trans hn⟩
    · next hstep => exact ⟨1, by rw [runSteps, if_pos hcarry, hstep]; exact h⟩
    · next hstep => exact ⟨1, by rw [runSteps, if_pos hcarry, hstep]; exact h⟩
  case isFalse hcarry => exact ⟨0, (runSteps_of_not_pos hcarry).trans h⟩

/-- Each step takes its cost from the carry and adds it to the cycle count. -/
theorem runSteps_cycles {n : Nat} (h : runSteps n s = some { state := t, stop := none }) :
    (t.cycles : Rat) - s.cycles = s.sched.carry - t.sched.carry ∧ t.sched.carry ≤ 0 := by
  induction n generalizing s with
  | zero =>
    unfold runSteps at h
    split at h
    · cases h
    · next hcarry => cases h; exact ⟨by simp, not_lt.mp hcarry⟩
  | succ n ih =>
    unfold runSteps at h
    split at h
    · split at h
      · next u hstep =>
        obtain ⟨hcycles, hsched⟩ := step_cycles hstep
        obtain ⟨hgain, hle⟩ := ih h
        refine ⟨?_, hle⟩
        simp only [State.setCarry, hcycles, hsched] at hgain
        push_cast at hgain
        linarith
      · cases h
      · cases h
    · next hcarry => cases h; exact ⟨by simp, not_lt.mp hcarry⟩

/-- Under the default CYCLES each step takes at least one cycle from the carry. -/
theorem runSteps_ends {n : Nat} (hcycles : s.params.cycleOverrides = []) (hcarry : s.sched.carry ≤ n) :
    ∃ r, runSteps n s = some r := by
  induction n generalizing s with
  | zero => exact ⟨_, runSteps_of_not_pos (not_lt.mpr (by simpa using hcarry))⟩
  | succ n ih =>
    by_cases hpos : s.sched.carry > 0
    case neg => exact ⟨_, runSteps_of_not_pos hpos⟩
    case pos =>
      cases hstep : step s with
      | next t =>
        obtain ⟨-, hsched⟩ := step_cycles hstep
        obtain ⟨-, -, -, -, -, -, -, -, -, -, hparams, -, -⟩ := stepKeepsRom s t hstep
        have hcost : (2 : Rat) ≤ t.cost := by exact_mod_cast step_cost hcycles hstep
        rw [runSteps_succ_of_next hpos hstep]
        refine ih (by simpa [State.setCarry, hparams] using hcycles) ?_
        simp only [State.setCarry, hsched]
        push_cast at hcarry
        linarith
      | fault f => exact ⟨_, by rw [runSteps, if_pos hpos, hstep]⟩
      | refused f => exact ⟨_, by rw [runSteps, if_pos hpos, hstep]⟩

theorem runLoop_of_run {budget : Rat} (h : run budget s = { state := t, stop := none }) :
    runLoop (s.setCarry (s.sched.carry + budget)) = some { state := t, stop := none } := by
  unfold run at h
  split at h
  · cases h
  · split at h
    · next hloop => rw [hloop, h]
    · cases h

/-- Settles O56: the loop ends exactly when a bounded one does, and each step moves its cost from the carry to the count. -/
theorem runCountsCycles : Obligations.RunCountsCycles := by
  refine ⟨fun budget s t h => ?_, runLoop_eq_some_iff, fun s hcycles => ?_⟩
  · obtain ⟨n, hn⟩ := (runLoop_eq_some_iff _ _).mp (runLoop_of_run h)
    exact runSteps_cycles hn
  · refine runSteps_ends hcycles ?_
    have hceil : (s.sched.carry.ceil : Rat) ≤ s.sched.carry.ceil.toNat := by exact_mod_cast Int.self_le_toNat _
    exact (Rat.le_ceil).trans hceil

end Sys2Proof
end

section
/-! PROOFS. The catch-up ends whenever the loop of 60_exceptions.md R400 does (63_apu.md R671, R672, R677). The DMC's reader takes
a byte when its buffer is empty, and the buffer empties once in `8 * rate` cycles. So a loop that ends is one of three kinds: the
reader runs out of bytes; each byte takes longer to play than it adds to the cost; or the loop ends before the buffer next
empties. -/

namespace Sys2Proof

open Machine Claims

variable {s t u : State}

/-! One cycle. -/

theorem wantsByte_eq_true (u : Dmc) : u.wantsByte = true ↔ u.bufEmpty = true ∧ u.remaining ≠ 0 := by
  rw [Dmc.wantsByte, Bool.and_eq_true, bne_iff_ne]

/-- The cycle takes no byte: the buffer is full or no byte is left. -/
structure IdleCycle (s : State) : Prop where
  cost : s.deviceCycle.cost = s.cost
  remaining : s.deviceCycle.apu.dmc.remaining = s.apu.dmc.remaining
  countdown :
    s.apu.dmc.countdown ≠ 0 ∧ s.deviceCycle.apu.dmc.countdown + 1 = s.apu.dmc.countdown ∧
      s.deviceCycle.apu.dmc.bufEmpty = s.apu.dmc.bufEmpty ∧ (s.apu.dmc.bufEmpty = false ∨ s.apu.dmc.remaining = 0) ∨
    s.apu.dmc.countdown = 0 ∧ s.deviceCycle.apu.dmc.countdown + 1 = 8 * s.apu.dmc.rate ∧ s.apu.dmc.remaining = 0

/-- The cycle takes a byte, for the empty buffer it found or for the one it emptied. -/
structure FetchCycle (s : State) : Prop where
  cost : s.deviceCycle.cost = s.cost + s.params.dmcStall
  full : s.deviceCycle.apu.dmc.bufEmpty = false
  wanted : s.apu.dmc.remaining ≠ 0
  remaining :
    s.deviceCycle.apu.dmc.remaining =
      if s.apu.dmc.remaining - 1 = 0 ∧ s.apu.dmc.loop = true then s.apu.dmc.sampleLen else s.apu.dmc.remaining - 1
  countdown :
    s.apu.dmc.countdown ≠ 0 ∧ s.deviceCycle.apu.dmc.countdown + 1 = s.apu.dmc.countdown ∧ s.apu.dmc.bufEmpty = true ∨
    s.apu.dmc.countdown = 0 ∧ s.deviceCycle.apu.dmc.countdown + 1 = 8 * s.apu.dmc.rate

theorem idleCycle_or_fetchCycle (s : State) : IdleCycle s ∨ FetchCycle s := by
  have hframe := Dmc.tick_frame s.apu.dmc s.params.dmcLimit
  have hcount := Dmc.tick_countdown s.apu.dmc s.params.dmcLimit
  have hremaining : (s.apu.dmc.tick s.params.dmcLimit).remaining = s.apu.dmc.remaining := by rw [hframe]
  have hloop : (s.apu.dmc.tick s.params.dmcLimit).loop = s.apu.dmc.loop := by rw [hframe]
  have hlen : (s.apu.dmc.tick s.params.dmcLimit).sampleLen = s.apu.dmc.sampleLen := by rw [hframe]
  obtain ⟨-, ⟨hwants, hdmc, hcost⟩ | ⟨hwants, ⟨b, hdmc⟩, hcost⟩⟩ := State.deviceCycle_dmc s
  case inl =>
    have hidle : (s.apu.dmc.tick s.params.dmcLimit).bufEmpty = false ∨ s.apu.dmc.remaining = 0 := by
      rw [← hremaining]
      simpa only [Dmc.wantsByte, Bool.and_eq_false_iff, bne_eq_false_iff_eq] using hwants
    refine .inl { cost := hcost, remaining := by rw [hdmc, hremaining], countdown := ?_ }
    rw [hdmc]
    obtain ⟨hne, hnext, hbuf⟩ | ⟨hzero, hnext, hbuf⟩ := hcount
    · exact .inl ⟨hne, hnext, hbuf, hbuf ▸ hidle⟩
    · exact .inr ⟨hzero, hnext, hidle.resolve_left (by rw [hbuf]; decide)⟩
  case inr =>
    obtain ⟨hbuf, hwanted⟩ := (wantsByte_eq_true _).mp hwants
    have hcountdown : s.deviceCycle.apu.dmc.countdown = (s.apu.dmc.tick s.params.dmcLimit).countdown := by
      rw [hdmc, Dmc.takeByte_frame]; rfl
    refine .inr { cost := hcost, full := ?_, wanted := hremaining ▸ hwanted, remaining := ?_, countdown := ?_ }
    · rw [hdmc, Dmc.takeByte_frame]
    · rw [hdmc, Dmc.takeByte_remaining, hremaining, hloop, hlen]
    · rw [hcountdown]
      obtain ⟨hne, hnext, hsame⟩ | ⟨hzero, hnext, -⟩ := hcount
      · exact .inl ⟨hne, hnext, hsame ▸ hbuf⟩
      · exact .inr ⟨hzero, hnext⟩

/-- A byte taken is one byte less. -/
theorem toNat_remaining_sub_one {n : BitVec 12} (h : n ≠ 0) : (n - 1).toNat + 1 = n.toNat := by
  have : n.toNat ≠ 0 := fun h' => h (BitVec.eq_of_toNat_eq h')
  bv_omega

/-! A reader that runs out of bytes. -/

/-- The reader has a last byte. -/
def ReaderFinite (s : State) : Prop := s.apu.dmc.remaining = 0 ∨ s.apu.dmc.loop = false ∨ s.apu.dmc.sampleLen = 0

/-- Each byte left adds DMC_STALL to the cost once. -/
def finiteMeasure (s : State) (k : Nat) : Nat := s.cost - k + s.params.dmcStall * s.apu.dmc.remaining.toNat

theorem readerFinite_deviceCycle {k : Nat} (h : ReaderFinite s) (hk : k < s.cost) :
    ReaderFinite s.deviceCycle ∧ finiteMeasure s.deviceCycle (k + 1) + 1 ≤ finiteMeasure s k := by
  obtain ⟨-, hloop, hlen, hparams, -⟩ := State.deviceCycle_keeps s
  unfold ReaderFinite finiteMeasure at *
  rw [hloop, hlen, hparams]
  obtain hidle | hfetch := idleCycle_or_fetchCycle s
  · rw [hidle.remaining, hidle.cost]
    exact ⟨h, by omega⟩
  · have hfinite := h.resolve_left hfetch.wanted
    have hremaining : s.deviceCycle.apu.dmc.remaining = s.apu.dmc.remaining - 1 := by
      rw [hfetch.remaining]
      split
      · next hend => rw [hend.1, hfinite.resolve_left (by rw [hend.2]; decide)]
      · rfl
    rw [hremaining, hfetch.cost, ← toNat_remaining_sub_one hfetch.wanted, Nat.mul_succ]
    exact ⟨.inr hfinite, by omega⟩

theorem catchUpLoop_ends_of_readerFinite (h : ReaderFinite s) : ∃ t, State.catchUpLoop s.catchUpFuel 0 s = some t := by
  refine State.catchUpLoop_measure ReaderFinite finiteMeasure (fun _ _ => readerFinite_deviceCycle) h ?_
  have hlt := s.apu.dmc.remaining.isLt
  have hmul : s.params.dmcStall * s.apu.dmc.remaining.toNat ≤ s.params.dmcStall * 4096 := Nat.mul_le_mul_left _ hlt.le
  unfold finiteMeasure State.catchUpFuel
  omega

/-! A byte that takes longer to play than it adds to the cost. -/

/-- The cost left, in units in which a cycle is worth the cycles of a byte; the buffer's next byte is paid for in advance, by and
by while the countdown runs, and at once when the buffer is empty. -/
def playMeasure (s : State) (k : Nat) : Nat :=
  8 * s.apu.dmc.rate * (s.cost - k) + s.params.dmcStall * (8 * s.apu.dmc.rate - 1 - s.apu.dmc.countdown) +
    (if s.apu.dmc.bufEmpty then 8 * s.apu.dmc.rate * s.params.dmcStall else 0)

/-- What a cycle changes in the advance payment: it grows by one share, or the buffer's next byte is due in full. -/
theorem advancePayment_step {stall byte d d' : Nat} (h : d ≠ 0 ∧ d' + 1 = d) :
    stall * (byte - 1 - d') ≤ stall * (byte - 1 - d) + stall := by
  rw [← Nat.mul_succ]
  exact Nat.mul_le_mul_left _ (by omega)

theorem advancePayment_due {stall byte d d' : Nat} (h : d = 0 ∧ d' + 1 = byte) :
    stall * (byte - 1 - d') = 0 ∧ stall * (byte - 1 - d) + stall = byte * stall := by
  obtain ⟨rfl, rfl⟩ := h
  constructor
  · rw [Nat.add_sub_cancel, Nat.sub_self, Nat.mul_zero]
  · rw [← Nat.mul_succ, Nat.mul_comm]; rfl

theorem playMeasure_deviceCycle {k : Nat} (h : s.params.dmcStall < 8 * s.apu.dmc.rate) (hk : k < s.cost) :
    s.deviceCycle.params.dmcStall < 8 * s.deviceCycle.apu.dmc.rate ∧
    playMeasure s.deviceCycle (k + 1) + 1 ≤ playMeasure s k := by
  obtain ⟨hrate, -, -, hparams, -⟩ := State.deviceCycle_keeps s
  unfold playMeasure
  rw [hrate, hparams]
  refine ⟨h, ?_⟩
  obtain ⟨m, hm⟩ : ∃ m, s.cost = k + 1 + m := ⟨s.cost - (k + 1), by omega⟩
  have hleft : s.cost - k = m + 1 := by omega
  obtain hidle | hfetch := idleCycle_or_fetchCycle s
  · have hleft' : s.deviceCycle.cost - (k + 1) = m := by rw [hidle.cost]; omega
    rw [hleft, hleft', Nat.mul_succ]
    obtain ⟨hne, hnext, hbuf, -⟩ | ⟨hzero, hnext, -⟩ := hidle.countdown
    · have hpay := advancePayment_step (stall := s.params.dmcStall) (byte := 8 * s.apu.dmc.rate) ⟨hne, hnext⟩
      rw [hbuf]
      omega
    · obtain ⟨hpay', hpay⟩ := advancePayment_due (stall := s.params.dmcStall) ⟨hzero, hnext⟩
      have hbuf : (if s.deviceCycle.apu.dmc.bufEmpty then 8 * s.apu.dmc.rate * s.params.dmcStall else 0) ≤
          8 * s.apu.dmc.rate * s.params.dmcStall := by split <;> omega
      omega
  · have hleft' : s.deviceCycle.cost - (k + 1) = m + s.params.dmcStall := by rw [hfetch.cost]; omega
    rw [hleft, hleft', Nat.mul_succ, Nat.mul_add, hfetch.full, if_neg Bool.false_ne_true]
    obtain ⟨hne, hnext, hbuf⟩ | ⟨hzero, hnext⟩ := hfetch.countdown
    · have hpay := advancePayment_step (stall := s.params.dmcStall) (byte := 8 * s.apu.dmc.rate) ⟨hne, hnext⟩
      rw [hbuf, if_pos rfl]
      omega
    · obtain ⟨hpay', hpay⟩ := advancePayment_due (stall := s.params.dmcStall) ⟨hzero, hnext⟩
      omega

theorem catchUpLoop_ends_of_stall_lt (h : s.params.dmcStall < 8 * s.apu.dmc.rate) :
    ∃ t, State.catchUpLoop s.catchUpFuel 0 s = some t := by
  refine State.catchUpLoop_measure (fun s => s.params.dmcStall < 8 * s.apu.dmc.rate) playMeasure
    (fun _ _ => playMeasure_deviceCycle) h ?_
  obtain ⟨-, hrate⟩ := s.apu.dmc.rate_bounds
  have hadvance : s.params.dmcStall * (8 * s.apu.dmc.rate - 1 - s.apu.dmc.countdown) ≤
      8 * s.apu.dmc.rate * s.params.dmcStall := by
    rw [Nat.mul_comm]
    exact Nat.mul_le_mul_right _ (by omega)
  have hempty : (if s.apu.dmc.bufEmpty then 8 * s.apu.dmc.rate * s.params.dmcStall else 0) ≤
      8 * s.apu.dmc.rate * s.params.dmcStall := by split <;> omega
  calc playMeasure s 0
    _ ≤ 8 * s.apu.dmc.rate * (s.cost + 2 * s.params.dmcStall) := by
      unfold playMeasure
      rw [Nat.sub_zero, Nat.mul_add, Nat.mul_left_comm _ 2]
      omega
    _ ≤ s.catchUpFuel := Nat.mul_le_mul_right _ (by omega)

/-! A looping sample whose bytes add at least what they take to play. -/

/-- A looping reader that always has a byte, and bytes that play no longer than they add to the cost. -/
structure ReaderHungry (s : State) : Prop where
  stall : 8 * s.apu.dmc.rate ≤ s.params.dmcStall
  loop : s.apu.dmc.loop = true
  sampleLen : s.apu.dmc.sampleLen ≠ 0
  remaining : s.apu.dmc.remaining ≠ 0

theorem readerHungry_deviceCycle (h : ReaderHungry s) : ReaderHungry s.deviceCycle := by
  obtain ⟨hrate, hloop, hlen, hparams, -⟩ := State.deviceCycle_keeps s
  refine { stall := hrate ▸ hparams ▸ h.stall, loop := hloop ▸ h.loop, sampleLen := hlen ▸ h.sampleLen, remaining := ?_ }
  obtain hidle | hfetch := idleCycle_or_fetchCycle s
  · rw [hidle.remaining]; exact h.remaining
  · rw [hfetch.remaining]
    split
    · exact h.sampleLen
    · next hmore => exact fun hlast => hmore ⟨hlast, h.loop⟩

/-- If the buffer empties before the loop would end, the loop never ends: the byte taken then lasts to the next one. -/
theorem catchUpLoop_diverges {k : Nat} (h : ReaderHungry s) (hdue : s.apu.dmc.countdown + k < s.cost) (n : Nat) :
    State.catchUpLoop n k s = none := by
  induction n generalizing s k with
  | zero => exact if_pos (by omega)
  | succ n ih =>
    rw [State.catchUpLoop, if_pos (by omega)]
    refine ih (readerHungry_deviceCycle h) ?_
    have hstall := h.stall
    obtain hidle | hfetch := idleCycle_or_fetchCycle s
    · obtain ⟨hne, hnext, -⟩ | ⟨-, -, hlast⟩ := hidle.countdown
      · rw [hidle.cost]; omega
      · exact absurd hlast h.remaining
    · rw [hfetch.cost]
      obtain ⟨hne, hnext, -⟩ | ⟨hzero, hnext⟩ := hfetch.countdown <;> omega

/-- If the full buffer does not empty before the loop ends, no byte is taken. -/
theorem catchUpLoop_ends_of_full {k n : Nat} (hbuf : s.apu.dmc.bufEmpty = false) (hdue : s.cost ≤ s.apu.dmc.countdown + k)
    (hn : s.cost ≤ n + k) : ∃ t, State.catchUpLoop n k s = some t := by
  induction n generalizing s k with
  | zero => exact ⟨s, if_neg (by omega)⟩
  | succ n ih =>
    by_cases hk : k < s.cost
    case neg => exact ⟨s, if_neg hk⟩
    case pos =>
      rw [State.catchUpLoop, if_pos hk]
      obtain hidle | hfetch := idleCycle_or_fetchCycle s
      · obtain ⟨hne, hnext, hsame, -⟩ | ⟨hzero, -, -⟩ := hidle.countdown
        · exact ih (hsame.trans hbuf) (by rw [hidle.cost]; omega) (by rw [hidle.cost]; omega)
        · omega
      · obtain ⟨-, -, hempty⟩ | ⟨hzero, -⟩ := hfetch.countdown
        · rw [hbuf] at hempty; cases hempty
        · omega

/-- After a loop's first byte the buffer is full, so a loop that ends, ends before the buffer empties. -/
theorem catchUpLoop_ends_of_fetchCycle (h : ReaderHungry s) (hfetch : FetchCycle s) {n k : Nat}
    (hn : State.catchUpLoop n k s.deviceCycle = some u) {m : Nat} (hm : s.cost + s.params.dmcStall ≤ m + k) :
    ∃ t, State.catchUpLoop m k s.deviceCycle = some t := by
  have hdue : ¬ s.deviceCycle.apu.dmc.countdown + k < s.deviceCycle.cost := fun hdue => by
    rw [catchUpLoop_diverges (readerHungry_deviceCycle h) hdue n] at hn; cases hn
  exact catchUpLoop_ends_of_full hfetch.full (not_lt.mp hdue) (by rw [hfetch.cost]; exact hm)

/-- A loop that ends takes at most the byte that an empty buffer wants at its start. -/
theorem catchUpLoop_ends_of_readerHungry (h : ReaderHungry s) {n : Nat} (hn : State.catchUpLoop n 0 s = some u) :
    ∃ t, State.catchUpLoop s.catchUpFuel 0 s = some t := by
  have hdue : ¬ s.apu.dmc.countdown + 0 < s.cost := fun hdue => by
    rw [catchUpLoop_diverges h hdue n] at hn; cases hn
  by_cases hfull : s.apu.dmc.bufEmpty = false ∨ s.cost = 0
  case pos =>
    obtain hbuf | hcost := hfull
    · exact catchUpLoop_ends_of_full hbuf (by omega) (by unfold State.catchUpFuel; omega)
    · exact ⟨s, by cases s.catchUpFuel <;> exact if_neg (by omega)⟩
  case neg =>
    obtain ⟨hbuf, hcost⟩ := not_or.mp hfull
    have hfetch : FetchCycle s := (idleCycle_or_fetchCycle s).resolve_left fun hidle => by
      obtain ⟨-, -, -, hidle⟩ | ⟨hzero, -, -⟩ := hidle.countdown
      · exact hidle.elim hbuf h.remaining
      · omega
    obtain ⟨m, hm⟩ : ∃ m, s.catchUpFuel = m + 1 := ⟨s.catchUpFuel - 1, by unfold State.catchUpFuel; omega⟩
    rw [hm, State.catchUpLoop, if_pos (by omega)]
    cases n with
    | zero => rw [State.catchUpLoop, if_pos (by omega)] at hn; cases hn
    | succ n =>
      rw [State.catchUpLoop, if_pos (by omega)] at hn
      exact catchUpLoop_ends_of_fetchCycle h hfetch hn (by unfold State.catchUpFuel at hm; omega)

theorem catchUpLoop_unique {n m k : Nat} (hn : State.catchUpLoop n k s = some t) (hm : State.catchUpLoop m k s = some u) :
    t = u :=
  Option.some_inj.mp
    ((State.catchUpLoop_mono hn (Nat.le_max_left n m)).symm.trans (State.catchUpLoop_mono hm (Nat.le_max_right n m)))

/-- The bound on the loop is large enough for every loop that ends. -/
theorem catchUpLoop_catchUpFuel {n : Nat} (hn : State.catchUpLoop n 0 s = some u) :
    State.catchUpLoop s.catchUpFuel 0 s = some u := by
  have hends : ∃ t, State.catchUpLoop s.catchUpFuel 0 s = some t := by
    by_cases hfinite : ReaderFinite s
    case pos => exact catchUpLoop_ends_of_readerFinite hfinite
    case neg =>
      by_cases hstall : s.params.dmcStall < 8 * s.apu.dmc.rate
      case pos => exact catchUpLoop_ends_of_stall_lt hstall
      case neg =>
        obtain ⟨hremaining, hloop, hlen⟩ : s.apu.dmc.remaining ≠ 0 ∧ s.apu.dmc.loop ≠ false ∧ s.apu.dmc.sampleLen ≠ 0 := by
          simpa only [ReaderFinite, not_or] using hfinite
        exact catchUpLoop_ends_of_readerHungry ⟨not_lt.mp hstall, Bool.eq_true_of_not_eq_false hloop, hlen, hremaining⟩ hn
  obtain ⟨t, ht⟩ := hends
  rw [ht, catchUpLoop_unique ht hn]

theorem catchUp_of_loop (h : State.catchUpLoop s.catchUpFuel 0 s = some u) :
    s.catchUp = .next { u with cycles := u.cycles + u.cost } := by
  rw [State.catchUp, h]

/-- Settles O58: a loop that ends, ends within the bound; and it does end when bytes play long enough, or run out. -/
theorem catchUpEnds : Obligations.CatchUpEnds := by
  refine fun s => ⟨fun n u hn => catchUp_of_loop (catchUpLoop_catchUpFuel hn), fun h => ?_, ?_⟩
  · have hends : ∃ t, State.catchUpLoop s.catchUpFuel 0 s = some t :=
      h.elim catchUpLoop_ends_of_stall_lt fun hloop => catchUpLoop_ends_of_readerFinite (.inr (.inl hloop))
    obtain ⟨u, hu⟩ := hends
    have hcatch := catchUp_of_loop hu
    obtain ⟨hcycles, -⟩ := State.catchUp_cycles hcatch
    exact ⟨_, hcatch, hcycles, catchUp_cost hcatch⟩
  · obtain ⟨hrate, -⟩ := s.apu.dmc.rate_bounds
    omega

end Sys2Proof
end
